-- ==== Sys2Proof/Word.lean ====
section
/-! DEFINITION. The word type and the slot index type of the block (00_scope.md R6, R8; 10_state.md R31). -/

namespace Sys2Proof

/-- A Word: an unsigned integer of the fixed width `W = 32` (R6). -/
abbrev Word := BitVec 32

/-- A slot index of the register space: the 5-bit index port `h_idx` (R31, R82, R91). -/
abbrev Slot := BitVec 5

end Sys2Proof
end

