-- ==== Sys2Proof/Syntax.lean ====
section
/-! DEFINITION. The commands of the block: one constructor per command of spec/opcode_table.json (30_encoding.md R112). -/

namespace Sys2Proof

/-- The thirteen commands of R112. ILLEGAL (R116) is no row of the table: it is every word that decodes to none of
these, and the step gives it its own meaning. No command has an operand field (R113): operands are registers. -/
inductive Instr where
  | div
  | modadd
  | modsub
  /-- The three MODOP.INVALID rows are one command; `fn` is the `FN` field, 2 to 15 (R114, R156). -/
  | modopInvalid (fn : BitVec 4)
  | modmul
  | modpow
  | gcd
  | isprime
  | modinv
  | keygen
  | xform
  | enc
  | dec
deriving DecidableEq, Repr

end Sys2Proof
end

