-- ==== Sys2Proof/WellFormed.lean ====
section
/-! DEFINITION. Which terms of Instr are commands the word format can spell (30_encoding.md R111, R114). -/

namespace Sys2Proof

/-- A command is well formed when some word encodes it: the operator field of MODOP.INVALID is neither Add (0) nor
Subtract (1), whose words are MODADD and MODSUB (R113, R114). -/
def Instr.wf : Instr → Bool
  | .modopInvalid fn => 2 ≤ fn.toNat
  | .div | .modadd | .modsub | .modmul | .modpow | .gcd | .isprime | .modinv | .keygen | .xform | .enc | .dec => true

/-- `Instr.wf` as a proposition. -/
abbrev Instr.WellFormed (i : Instr) : Prop := i.wf = true

end Sys2Proof
end

