-- ==== Sys2Proof/Decode.lean ====
section
/-! DEFINITION. The command word: its fields, the decoder, the encoder and the opcode table (30_encoding.md R110 to R115). -/

namespace Sys2Proof

/-- Why a word encodes no command; both are the illegal space of R115, and both execute as ILLEGAL (R116). -/
inductive DecodeReject where
  /-- `RSV != 0`, with any low byte. -/
  | reservedBits
  /-- `RSV = 0` and an opcode R111 gives no command. -/
  | noSuchOpcode
deriving DecidableEq, Repr

/-- `RSV`, bits 31:8 (R110). -/
def rsvField (c : Word) : BitVec 24 := c.extractLsb' 8 24

/-- `UNIT`, bits 7:4 (R110). -/
def unitField (c : Word) : BitVec 4 := c.extractLsb' 4 4

/-- `FN`, bits 3:0 (R110). -/
def fnField (c : Word) : BitVec 4 := c.extractLsb' 0 4

/-- The word `{RSV = 0, UNIT, FN}` of format C (R110). -/
def formatC (unit fn : BitVec 4) : Word := 0#24 ++ unit ++ fn

/-- The command a pair `UNIT`, `FN` selects (R111, R112). `UNIT` follows the order of the units: 1 the divider, 2 the
modular adder, 3 the multiplier, 4 the exponentiation engine, 5 gcd, 6 primality, 7 inverse, 8 key generator, 9 cipher. -/
def decodeOpcode (unit fn : Nat) : Option Instr :=
  match unit, fn with
  | 1, 0 => some .div
  | 2, 0 => some .modadd
  | 2, 1 => some .modsub
  | 2, k + 2 => some (.modopInvalid (BitVec.ofNat 4 (k + 2)))
  | 3, 0 => some .modmul
  | 4, 0 => some .modpow
  | 5, 0 => some .gcd
  | 6, 0 => some .isprime
  | 7, 0 => some .modinv
  | 8, 0 => some .keygen
  | 9, 0 => some .xform
  | 9, 1 => some .enc
  | 9, 2 => some .dec
  | _, _ => none

/-- `decode(c)` (R111): total on all Words; a rejected word is ILLEGAL. -/
def decode (c : Word) : Except DecodeReject Instr :=
  if rsvField c = 0 then
    match decodeOpcode (unitField c).toNat (fnField c).toNat with
    | some i => .ok i
    | none => .error .noSuchOpcode
  else .error .reservedBits

/-- The word of a command, from the opcode column of R112. -/
def encode : Instr → Word
  | .div => formatC 1 0
  | .modadd => formatC 2 0
  | .modsub => formatC 2 1
  | .modopInvalid fn => formatC 2 fn
  | .modmul => formatC 3 0
  | .modpow => formatC 4 0
  | .gcd => formatC 5 0
  | .isprime => formatC 6 0
  | .modinv => formatC 7 0
  | .keygen => formatC 8 0
  | .xform => formatC 9 0
  | .enc => formatC 9 1
  | .dec => formatC 9 2

/-- The mnemonic of a command (R112). -/
def mnemonic : Instr → String
  | .div => "DIV"
  | .modadd => "MODADD"
  | .modsub => "MODSUB"
  | .modopInvalid _ => "MODOP.INVALID"
  | .modmul => "MODMUL"
  | .modpow => "MODPOW"
  | .gcd => "GCD"
  | .isprime => "ISPRIME"
  | .modinv => "MODINV"
  | .keygen => "KEYGEN"
  | .xform => "XFORM"
  | .enc => "ENC"
  | .dec => "DEC"

/-- One row of the opcode map (R112). -/
structure OpcodeRow where
  mnemonic : String
  pattern : Word
  mask : Word
deriving DecidableEq, Repr

/-- A word `c` selects a row when `c and mask = match` (R112). -/
def OpcodeRow.selects (r : OpcodeRow) (c : Word) : Bool := c &&& r.mask == r.pattern

/-- The fifteen rows of R112. -/
def opcodeTable : List OpcodeRow :=
  [⟨"DIV", 0x00000010, 0xFFFFFFFF⟩,
   ⟨"MODADD", 0x00000020, 0xFFFFFFFF⟩,
   ⟨"MODSUB", 0x00000021, 0xFFFFFFFF⟩,
   ⟨"MODOP.INVALID", 0x00000022, 0xFFFFFFFE⟩,
   ⟨"MODOP.INVALID", 0x00000024, 0xFFFFFFFC⟩,
   ⟨"MODOP.INVALID", 0x00000028, 0xFFFFFFF8⟩,
   ⟨"MODMUL", 0x00000030, 0xFFFFFFFF⟩,
   ⟨"MODPOW", 0x00000040, 0xFFFFFFFF⟩] ++
  [⟨"GCD", 0x00000050, 0xFFFFFFFF⟩,
   ⟨"ISPRIME", 0x00000060, 0xFFFFFFFF⟩,
   ⟨"MODINV", 0x00000070, 0xFFFFFFFF⟩,
   ⟨"KEYGEN", 0x00000080, 0xFFFFFFFF⟩,
   ⟨"XFORM", 0x00000090, 0xFFFFFFFF⟩,
   ⟨"ENC", 0x00000091, 0xFFFFFFFF⟩,
   ⟨"DEC", 0x00000092, 0xFFFFFFFF⟩]

/-- The Word whose bits are the low `nbits` bits of `w`; every bit above is 0. A command is one Word (R110, R118), and
a Word has no byte order at the block's boundary (R81). -/
def tableWord (nbits w : Nat) : Word := BitVec.ofNat 32 (w % 2 ^ nbits)

/-- The command the decoder reads from a row's bits, numbered as spec/opcode_table.json numbers them. -/
def decodeTableWord (nbits w : Nat) : Option Instr :=
  match decode (tableWord nbits w) with
  | .ok i => some i
  | .error _ => none

end Sys2Proof
end

