-- ==== Sys2Proof/Config.lean ====
section
/-! DEFINITION. What this implementation fixes: the parameters of 00_scope.md R7, and the one free value. -/

namespace Sys2Proof.Config

/-- `W`, the word width (R6, R7). -/
def width : Nat := 32

/-- `2^W`, the number of Words. -/
def wordCount : Nat := 4294967296

/-- `MAX = 2^W - 1`, the largest Word (R6, R7). -/
def maxWord : Nat := 4294967295

/-- `KG_ROUNDS`, the Miller–Rabin rounds of KEYGEN (R7, R222). -/
def kgRounds : Nat := 100

/-- `RST_KG_LO` (R7, R52). -/
def rstKgLo : Word := 0x00000000

/-- `RST_KG_HI = 2^(W/2)` (R7, R52). -/
def rstKgHi : Word := 0x00010000

/-- `RST_KG_MIN = 2^(W/2-1)` (R7, R52). -/
def rstKgMin : Word := 0x00008000

/-- `RST_KG_ATTEMPTS = 4096` (R7, R52). -/
def rstKgAttempts : Word := 0x00001000

/-- FREE VALUE: `powmod(b, e, 0)`, which R9 leaves undefined ("neither is defined for `b = 0`"). Only ENC or DEC could
ask for it, with `KEYVALID = 1` and `KEY_N = 0`, and no reachable state holds that pair (R53 (e)). The instruction runs
there with this value; nothing can be proved of it. Log entry 4 (safe). -/
opaque powmodZeroModulus : Word → Word → Word

end Sys2Proof.Config
end

