-- ==== Sys2Proof/Machine/Arith.lean ====
section
/-! DEFINITION. The pure functions of 00_scope.md R16, over the naturals (R9, R15), and their Word-valued forms. -/

namespace Sys2Proof.Machine

/-- The low 32 bits of a natural as a Word. Every rule that writes a register makes evident that the value is at most
`MAX` (R9, 70_reset_and_hazards.md R287), so nothing is lost where the model uses it. -/
def toWord (v : Nat) : Word := BitVec.ofNat 32 v

/-- `divide(a, n)` for `n > 0` (40_divide.md R140). -/
def divide (a n : Nat) : Nat × Nat := (a / n, a % n)

/-- `addmod(a, b, n)` for `n > 0` (41_modular_arithmetic.md R150). -/
def addmod (a b n : Nat) : Nat := (a + b) % n

/-- `submod(a, b, n)` for `n > 0` (R153). -/
def submod (a b n : Nat) : Nat := (a % n + n - b % n) % n

/-- `mulmod(x, y, n)` for `n > 0` (R157). -/
def mulmod (x y n : Nat) : Nat := x * y % n

/-- The bits of `e` from the least significant up, `k` of them: `sq` is the current square, `acc` the product of the
squares at the set bits so far (42_modpow.md R172). -/
def powmodBits (n : Nat) : Nat → Nat → Nat → Nat → Nat
  | 0, _, _, acc => acc
  | k + 1, sq, e, acc => powmodBits n k (mulmod sq sq n) (e / 2) (if e % 2 = 1 then mulmod acc sq n else acc)

/-- `powmod(b, e, n)` for `n > 0` (R170): `(b ^ e) mod n`, by square-and-multiply so that it can be evaluated on Words
(Laws/Arith.lean proves it equal to R170's value). -/
def powmod (b e n : Nat) : Nat := powmodBits n Config.width (b % n) e (1 % n)

/-- `gcd(a, b)` (43_gcd.md R180): the greatest common divisor, with `gcd(a, 0) = a` and `gcd(0, 0) = 0`. -/
def gcdOf (a b : Nat) : Nat := Nat.gcd a b

/-- The loop of the extended Euclidean iteration with modulus `m` (45_modinv.md R212). The second remainder starts at
`m` and strictly decreases, so `m` passes always reach 0. -/
def xgcdLoop (m : Nat) : Nat → Nat → Nat → Nat → Nat → Nat × Nat
  | 0, r0, _, x0, _ => (r0, x0 % m)
  | k + 1, r0, r1, x0, x1 =>
    if r1 = 0 then (r0, x0 % m)
    else xgcdLoop m k r1 (r0 % r1) x1 (submod x0 (mulmod (r0 / r1) x1 m) m)

/-- `xgcd(a, M)` for `M > 0` (R212): the greatest common divisor and a Bézout coefficient of `a` modulo `M`. -/
def xgcd (a m : Nat) : Nat × Nat := xgcdLoop m m a m 1 0

/-- `inverse(a, m)` for `m > 0` and `gcd(a, m) = 1` (R210), by the iteration of R212 (Laws/Arith.lean proves R210's
two properties of it). -/
def inverse (a m : Nat) : Nat := (xgcd a m).2

/-- `scale(u, lo, hi)` (00_scope.md R13); natural subtraction is the spec's `-.`. -/
def scale (u lo hi : Nat) : Nat := lo + u * (hi - lo) / Config.wordCount

/-- `powmod` on Words, as the command rules use it (R171, R240 to R242). At `n = 0` R9 defines no value. -/
def powmodWord (b e n : Word) : Word :=
  if n = 0 then Config.powmodZeroModulus b e else toWord (powmod b.toNat e.toNat n.toNat)

end Sys2Proof.Machine
end

