-- ==== Sys2Proof/Machine/State.lean ====
section
/-! DEFINITION. The state of the block and of the ports it reads, as plain data, and its value after reset (10_state.md). -/

namespace Sys2Proof.Machine

/-- The errors a command can end with (60_exceptions.md R250). -/
inductive CmdError where
  | invalidOperation
  | divisionByZero
  | inverseUndefined
  | keyGenerationInvariant
  | attemptsExceeded
  | illegalCommand
  | keyNotValid
deriving DecidableEq, Repr

/-- The key register file `KEY_P`, `KEY_Q`, `KEY_E`, `KEY_D`, `KEY_N`, slots 9 to 13: the document's KeyPair (R43). -/
structure KeyFile where
  p : Word
  q : Word
  e : Word
  d : Word
  n : Word
deriving DecidableEq, Repr

/-- The key-generation configuration `KG_LO`, `KG_HI`, `KG_MIN`, `KG_ATTEMPTS`, slots 14 to 17 (R40, R41). -/
structure KgConfig where
  lo : Word
  hi : Word
  min : Word
  attempts : Word
deriving DecidableEq, Repr

/-- `regs`, the register values read at the acceptance step (20_memory.md R87). -/
structure Snapshot where
  opa : Word
  opb : Word
  opn : Word
  keyE : Word
  keyD : Word
  keyN : Word
  keyValid : Bool
  kg : KgConfig
deriving DecidableEq, Repr

/-- The in-flight context `(c, regs, draws)` (R46, R87). It exists exactly while `STATUS.BUSY = 1`. -/
structure InFlight where
  /-- The command word accepted. -/
  word : Word
  /-- The register values read at acceptance. -/
  regs : Snapshot
  /-- The Words received from the RNG collaborator so far for this command, first received first. -/
  draws : List Word
deriving DecidableEq, Repr

/-- The outcome of a command, `{err, res0, res1, key}` (R48). `key` is absent for every command but KEYGEN. -/
structure CmdOutcome where
  err : Option CmdError
  res0 : Word
  res1 : Word
  key : Option KeyFile
deriving DecidableEq, Repr

/-- What the execution function returns (R47): `more`, the command would now request one more draw; `fin`, it has
finished with this outcome. -/
inductive ExecResult where
  | more
  | fin (o : CmdOutcome)
deriving DecidableEq, Repr

/-- A piece of a command's pseudocode run on a sequence of draws: it asks for a draw beyond the end, raises an error
(R12), or ends with a value and the draws it did not consume. -/
inductive Run (α : Type) where
  | more
  | raise (e : CmdError)
  | done (a : α) (rest : List Word)
deriving DecidableEq, Repr

/-- The host's two transactions (00_scope.md R11): `MemRead(i, 1)` and `MemWrite(i, 1, v)`. -/
inductive HostTxn where
  | read (i : Slot)
  | write (i : Slot) (v : Word)
deriving DecidableEq, Repr

/-- What the block's environment does next: the steps of R95, one each, and the same-cycle coincidences of R96 and
R283. Which agent moves, which draws are supplied and when reset comes is unconstrained (R286), so it is data. -/
inductive Input where
  /-- The host performs a transaction. -/
  | host (t : HostTxn)
  /-- The engine takes its turn (a draw step, a completion step, or none where none is enabled), with what the
  collaborator offers on the RNG port (`rng_ack`, `rng_data`), if anything. -/
  | engine (reply : Option Word)
  /-- A host transaction and an engine turn in the same clock cycle. `hostFirst` is the order where R96 names none. -/
  | coincide (t : HostTxn) (reply : Option Word) (hostFirst : Bool)
  /-- `rst = 1` at a clock edge, with whatever the other ports carry in that cycle (R280, R283). -/
  | reset (t : Option HostTxn) (reply : Option Word)
deriving DecidableEq, Repr

/-- Why the machine would stop with a fault. The type is EMPTY: "There is no unpredictable behaviour"
(70_reset_and_hazards.md R286), so nothing raises a fault; a command's error is a completion (R262), a next state. -/
inductive Fault where
deriving DecidableEq, Repr

/-- Why the machine would have no meaning for a command. -/
inductive Refusal where
  /-- An arm of Dispatch.lean that has no meaning yet. No arm raises it: every command is modelled. Safe. -/
  | notModelled (mnemonic : String)
deriving DecidableEq, Repr

/-- The state. The first fifteen fields are the block's (R31, R46); the last three are its environment's ports. -/
structure State where
  /-- `CTRL.IE`, the interrupt enable (R36). -/
  ie : Bool
  /-- `STATUS.DONE` (R37). -/
  done : Bool
  /-- `STATUS.ERR` (R37). -/
  err : Bool
  /-- `STATUS.OVR` (R37). -/
  ovr : Bool
  /-- `STATUS.KEYVALID` (R37). -/
  keyValid : Bool
  /-- `CMD`, the last accepted command word (R38). -/
  cmd : Word
  /-- `ERRCODE[3:0]` (R39). -/
  errCode : BitVec 4
  /-- `OPA` (R32). -/
  opa : Word
  /-- `OPB` (R32). -/
  opb : Word
  /-- `OPN` (R32). -/
  opn : Word
  /-- `RES0` (R32). -/
  res0 : Word
  /-- `RES1` (R32). -/
  res1 : Word
  /-- `KEY_P`, `KEY_Q`, `KEY_E`, `KEY_D`, `KEY_N` (R43). -/
  keys : KeyFile
  /-- `KG_LO`, `KG_HI`, `KG_MIN`, `KG_ATTEMPTS` (R40, R41). -/
  kg : KgConfig
  /-- The in-flight context (R46). `STATUS.BUSY`, the phase (R35), is 1 exactly when it exists (`State.busy`). -/
  inFlight : Option InFlight
  /-- PORT: what the environment does in the coming steps, first first; when the list is empty the engine takes its
  turn and the ports are quiet. Log entry 1. -/
  inputs : List Input
  /-- PORT `rng_ack`, `rng_data`: the draw the collaborator offers in this step, if any (R91, R92). -/
  rngIn : Option Word
  /-- PORT `h_ack`, `h_rdata`: the value the host read in the last step, if that step was a read (R84, R91). -/
  hostRead : Option Word
deriving DecidableEq, Repr

/-- The key registers after reset, and after a failed KEYGEN (R52, 46_keygen.md R230): five zeros. -/
def KeyFile.zero : KeyFile := ⟨0, 0, 0, 0, 0⟩

/-- The configuration registers after reset (R52). -/
def KgConfig.reset : KgConfig := ⟨Config.rstKgLo, Config.rstKgHi, Config.rstKgMin, Config.rstKgAttempts⟩

/-- The machine right after reset (R52, 70_reset_and_hazards.md R280), with quiet ports. -/
def State.reset : State where
  ie := false
  done := false
  err := false
  ovr := false
  keyValid := false
  cmd := 0
  errCode := 0
  opa := 0
  opb := 0
  opn := 0
  res0 := 0
  res1 := 0
  keys := KeyFile.zero
  kg := KgConfig.reset
  inFlight := none
  inputs := []
  rngIn := none
  hostRead := none

end Sys2Proof.Machine
end

