-- ==== Sys2Proof/Machine/Flags.lean ====
section
/-! DEFINITION. The status flags: the STATUS word, write-one-to-clear, error codes and the outputs that are functions of
the flags (10_state.md R35 to R37, R50; 60_exceptions.md R250, R256). -/

namespace Sys2Proof.Machine

/-- `STATUS.BUSY`, the phase bit: 1 exactly when a command is in flight (R35, R46). -/
def State.busy (s : State) : Bool := s.inFlight.isSome

/-- `{0[W-1:5], KEYVALID, OVR, ERR, DONE, BUSY}`, the word a read of STATUS returns (20_memory.md R84). -/
def State.statusWord (s : State) : Word :=
  0#27 ++ BitVec.ofBool s.keyValid ++ BitVec.ofBool s.ovr ++ BitVec.ofBool s.err ++ BitVec.ofBool s.done
    ++ BitVec.ofBool s.busy

/-- The word a read of CTRL returns: bit 0 is `IE` (R84). -/
def State.ctrlWord (s : State) : Word := 0#31 ++ BitVec.ofBool s.ie

/-- The word a read of ERRCODE returns (R39, R84). -/
def State.errCodeWord (s : State) : Word := 0#28 ++ s.errCode

/-- A host write of `v` to STATUS: write-one-to-clear of DONE, ERR and OVR; every other bit of `v` is ignored (R86). -/
def State.clearStatus (v : Word) (s : State) : State :=
  { s with
    done := s.done && !v.getLsbD 1
    err := s.err && !v.getLsbD 2
    ovr := s.ovr && !v.getLsbD 3 }

/-- A host write of `v` to CTRL: `IE <- v[0]` (R86). -/
def State.writeCtrl (v : Word) (s : State) : State := { s with ie := v.getLsbD 0 }

/-- `STATUS.OVR <- 1` (R88). -/
def State.setOvr (s : State) : State := { s with ovr := true }

/-- The code of an error in `ERRCODE[3:0]` (R250). -/
def CmdError.code : CmdError → BitVec 4
  | .invalidOperation => 1
  | .divisionByZero => 2
  | .inverseUndefined => 3
  | .keyGenerationInvariant => 4
  | .attemptsExceeded => 5
  | .illegalCommand => 6
  | .keyNotValid => 7

/-- The error code of an outcome, 0 for success (R48, R250). -/
def errorCode : Option CmdError → BitVec 4
  | none => 0
  | some e => e.code

/-- `irq`, the interrupt output: `CTRL.IE and STATUS.DONE` at every moment (R50, R256). -/
def State.irq (s : State) : Bool := s.ie && s.done

end Sys2Proof.Machine
end

