-- ==== Sys2Proof/Machine/Operands.lean ====
section
/-! DEFINITION. The register space: the slot map, host reads of a register, and the operand values a command reads
(10_state.md R31, R33; 20_memory.md R84, R87). -/

namespace Sys2Proof.Machine

/-- The eighteen named registers of R31. -/
inductive Reg where
  | ctrl | status | cmd | errCode | opa | opb | opn | res0 | res1
  | keyP | keyQ | keyE | keyD | keyN | kgLo | kgHi | kgMin | kgAttempts
deriving DecidableEq, Repr

/-- The slot index of a register (R31). -/
def Reg.slot : Reg → Slot
  | .ctrl => 0 | .status => 1 | .cmd => 2 | .errCode => 3
  | .opa => 4 | .opb => 5 | .opn => 6 | .res0 => 7 | .res1 => 8
  | .keyP => 9 | .keyQ => 10 | .keyE => 11 | .keyD => 12 | .keyN => 13
  | .kgLo => 14 | .kgHi => 15 | .kgMin => 16 | .kgAttempts => 17

/-- The register at a slot; slots 18 to 31 are reserved (R31, R42). -/
def slotReg (i : Slot) : Option Reg :=
  match i.toNat with
  | 0 => some .ctrl | 1 => some .status | 2 => some .cmd | 3 => some .errCode
  | 4 => some .opa | 5 => some .opb | 6 => some .opn | 7 => some .res0 | 8 => some .res1
  | 9 => some .keyP | 10 => some .keyQ | 11 => some .keyE | 12 => some .keyD | 13 => some .keyN
  | 14 => some .kgLo | 15 => some .kgHi | 16 => some .kgMin | 17 => some .kgAttempts
  | _ => none

/-- The value a host read of a register returns (R84). -/
def State.readReg (s : State) : Reg → Word
  | .ctrl => s.ctrlWord
  | .status => s.statusWord
  | .cmd => s.cmd
  | .errCode => s.errCodeWord
  | .opa => s.opa
  | .opb => s.opb
  | .opn => s.opn
  | .res0 => s.res0
  | .res1 => s.res1
  | .keyP => s.keys.p
  | .keyQ => s.keys.q
  | .keyE => s.keys.e
  | .keyD => s.keys.d
  | .keyN => s.keys.n
  | .kgLo => s.kg.lo
  | .kgHi => s.kg.hi
  | .kgMin => s.kg.min
  | .kgAttempts => s.kg.attempts

/-- `MemRead(i, 1)` (R84): a reserved slot reads 0. -/
def State.memRead (s : State) (i : Slot) : Word :=
  match slotReg i with
  | some r => s.readReg r
  | none => 0

/-- `regs`, the register values a command takes at the acceptance step (R87). -/
def State.snapshot (s : State) : Snapshot where
  opa := s.opa
  opb := s.opb
  opn := s.opn
  keyE := s.keys.e
  keyD := s.keys.d
  keyN := s.keys.n
  keyValid := s.keyValid
  kg := s.kg

end Sys2Proof.Machine
end

