-- ==== Sys2Proof/Machine/Ops.lean ====
section
/-! DEFINITION. The named operations of the step relation: host writes, acceptance, draws, completion, the error
completion, reset and the same-cycle order (20_memory.md R85 to R96; 60_exceptions.md R262; 70_reset_and_hazards.md R280). -/

namespace Sys2Proof.Machine

/-! ### The host port -/

/-- The acceptance step: a write of `c` to CMD while idle (R87). -/
def State.accept (c : Word) (s : State) : State :=
  { s with
    cmd := c
    done := false
    err := false
    errCode := 0
    inFlight := some ⟨c, s.snapshot, []⟩ }

/-- A plain write of an operand or configuration register (R89); the other registers have no plain write. -/
def State.plainWrite (r : Reg) (v : Word) (s : State) : State :=
  match r with
  | .opa => { s with opa := v }
  | .opb => { s with opb := v }
  | .opn => { s with opn := v }
  | .kgLo => { s with kg := { s.kg with lo := v } }
  | .kgHi => { s with kg := { s.kg with hi := v } }
  | .kgMin => { s with kg := { s.kg with min := v } }
  | .kgAttempts => { s with kg := { s.kg with attempts := v } }
  | .ctrl | .status | .cmd | .errCode | .res0 | .res1 | .keyP | .keyQ | .keyE | .keyD | .keyN => s

/-- A host write of `v` to a register, dispatched by register and phase (R85). -/
def State.writeReg (r : Reg) (v : Word) (s : State) : State :=
  match r with
  | .ctrl => s.writeCtrl v
  | .status => s.clearStatus v
  | .cmd => if s.busy then s.setOvr else s.accept v
  | .opa | .opb | .opn | .kgLo | .kgHi | .kgMin | .kgAttempts => if s.busy then s.setOvr else s.plainWrite r v
  | .errCode | .res0 | .res1 | .keyP | .keyQ | .keyE | .keyD | .keyN => s

/-- `MemWrite(i, 1, v)` (R85): a write to a reserved slot is ignored (R90). -/
def State.memWrite (i : Slot) (v : Word) (s : State) : State :=
  match slotReg i with
  | some r => s.writeReg r v
  | none => s

/-- One host transaction. A read puts the slot's value on `h_rdata` and changes nothing of the block (R83, R84). -/
def State.hostTxn (t : HostTxn) (s : State) : State :=
  match t with
  | .read i => { s with hostRead := some (s.memRead i) }
  | .write i v => s.memWrite i v

/-! ### Draws -/

/-- `e` applied to the value and the rest of the draws of a piece of pseudocode, unless it stopped. -/
def Run.bind {α β : Type} (x : Run α) (f : α → List Word → Run β) : Run β :=
  match x with
  | .more => .more
  | .raise e => .raise e
  | .done a rest => f a rest

/-- The draw step (R93): the collaborator's Word is appended to the draws; where it offers none the engine stays as it
is, with its request pending (70_reset_and_hazards.md R288). A taken draw is consumed (R92). -/
def State.takeDraw (ctx : InFlight) (s : State) : State :=
  match s.rngIn with
  | some u => { s with rngIn := none, inFlight := some { ctx with draws := ctx.draws ++ [u] } }
  | none => s

/-! ### Completion -/

/-- The outcome of a command that succeeds with these results (R48). -/
def success (res0 res1 : Word) : CmdOutcome := ⟨none, res0, res1, none⟩

/-- TAKING AN ERROR, the analogue of trap entry (R262): the outcome of a command that raises `e`. The completion step
writes its code to ERRCODE, zeroes the results and leaves the key registers alone. -/
def errorOutcome (e : CmdError) : CmdOutcome := ⟨some e, 0, 0, none⟩

/-- A KEYGEN that succeeds (46_keygen.md R229). -/
def keygenSuccess (k : KeyFile) : CmdOutcome := ⟨none, 0, 0, some k⟩

/-- A KEYGEN that fails: an error outcome that also destroys the key (R230, R262). -/
def keygenFailure (e : CmdError) : CmdOutcome := { errorOutcome e with key := some KeyFile.zero }

/-- The completion step (R94): all of its writes happen together. The key registers and KEYVALID are written only by an
outcome that carries a key, which only KEYGEN's does (R48). -/
def State.complete (o : CmdOutcome) (s : State) : State :=
  { s with
    done := true
    err := o.err.isSome
    errCode := errorCode o.err
    res0 := o.res0
    res1 := o.res1
    keys := o.key.getD s.keys
    keyValid := if o.key.isSome then o.err.isNone else s.keyValid
    inFlight := none }

/-- THE RETURN FROM AN ERROR (R264): there is no return instruction; the host's acknowledgement is a write of 1 to the
DONE and ERR bits of STATUS, which leaves ERRCODE. (The other way is the next acceptance.) -/
def State.acknowledge (s : State) : State := s.clearStatus 0x00000006

/-- The engine's turn on the command in flight, whose execution function is `f` (R47): the draw step when `f` asks for
more, the completion step when it has finished. In the idle phase the engine has no step (R93, R94). -/
def engineTurn (f : Snapshot → List Word → ExecResult) (s : State) : Host.Outcome State Fault Refusal :=
  match s.inFlight with
  | none => .next s
  | some ctx =>
    match f ctx.regs ctx.draws with
    | .more => .next (s.takeDraw ctx)
    | .fin o => .next (s.complete o)

/-! ### Steps -/

/-- The start of a step: the ports carry what the environment does in it, and the last read is no longer shown. -/
def State.startStep (rest : List Input) (reply : Option Word) (s : State) : State :=
  { s with inputs := rest, rngIn := reply, hostRead := none }

/-- The order of a host transaction and an engine turn in one clock cycle: a write to STATUS comes before a completion,
a write to CMD after it (R96); elsewhere R96 names no order and the environment's choice stands. -/
def hostGoesFirst (t : HostTxn) (hostFirst : Bool) : Bool :=
  match t with
  | .read _ => hostFirst
  | .write i _ => if i = Reg.status.slot then true else if i = Reg.cmd.slot then false else hostFirst

/-- The reset step (70_reset_and_hazards.md R280): every piece of the block's state takes its reset value and a command
in flight is abandoned; what the environment will do is not the block's to reset (R282). -/
def State.resetStep (rest : List Input) : State := { State.reset with inputs := rest }

end Sys2Proof.Machine
end

