-- ==== Sys2Proof/Machine/ModArith.lean ====
section
/-! DEFINITION. The modular adder, subtractor and multiplier: MODADD, MODSUB, MODOP.INVALID, MODMUL (41_modular_arithmetic.md). -/

namespace Sys2Proof.Machine

/-- A command with operands `OPA`, `OPB` and modulus `OPN` and one Word result: a zero modulus is an error, tested
before anything else (60_exceptions.md R252); otherwise `RES0` is `f OPA OPB OPN` and `RES1` is 0. -/
def modularResult (f : Word → Word → Word → Word) (r : Snapshot) : ExecResult :=
  if r.opn = 0 then .fin (errorOutcome .divisionByZero) else .fin (success (f r.opa r.opb r.opn) 0)

/-- MODADD (R152). -/
def modaddResult (r : Snapshot) (_ : List Word) : ExecResult :=
  modularResult (fun a b n => toWord (addmod a.toNat b.toNat n.toNat)) r

/-- MODSUB (R155). -/
def modsubResult (r : Snapshot) (_ : List Word) : ExecResult :=
  modularResult (fun a b n => toWord (submod a.toNat b.toNat n.toNat)) r

/-- MODOP.INVALID (R156): the operator is examined before the modulus and no operand is read. -/
def modopInvalidResult (_ : Snapshot) (_ : List Word) : ExecResult := .fin (errorOutcome .invalidOperation)

/-- MODMUL (R159). -/
def modmulResult (r : Snapshot) (_ : List Word) : ExecResult :=
  modularResult (fun x y n => toWord (mulmod x.toNat y.toNat n.toNat)) r

/-- The engine's turn on a MODADD (R152). -/
def execModadd (s : State) : Host.Outcome State Fault Refusal := engineTurn modaddResult s

/-- The engine's turn on a MODSUB (R155). -/
def execModsub (s : State) : Host.Outcome State Fault Refusal := engineTurn modsubResult s

/-- The engine's turn on a MODOP.INVALID (R156): every operator field `FN` in 2 to 15 has the same outcome (R114). -/
def execModopInvalid (_ : BitVec 4) (s : State) : Host.Outcome State Fault Refusal := engineTurn modopInvalidResult s

/-- The engine's turn on a MODMUL (R159). -/
def execModmul (s : State) : Host.Outcome State Fault Refusal := engineTurn modmulResult s

end Sys2Proof.Machine
end

