-- ==== Sys2Proof/Machine/Cipher.lean ====
section
/-! DEFINITION. The RSA cipher core: XFORM, ENC, DEC (47_cipher.md). -/

namespace Sys2Proof.Machine

/-- XFORM (R240): the key and the modulus are operands. -/
def xformResult (r : Snapshot) (_ : List Word) : ExecResult := modularResult powmodWord r

/-- `Transform` with an exponent of the stored KeyPair (R241, R242): an error while no KeyPair is valid. -/
def storedKeyResult (exponent : Word) (r : Snapshot) : ExecResult :=
  if r.keyValid then .fin (success (powmodWord r.opa exponent r.keyN) 0) else .fin (errorOutcome .keyNotValid)

/-- ENC (R241). -/
def encResult (r : Snapshot) (_ : List Word) : ExecResult := storedKeyResult r.keyE r

/-- DEC (R242). -/
def decResult (r : Snapshot) (_ : List Word) : ExecResult := storedKeyResult r.keyD r

/-- The engine's turn on an XFORM (R240). -/
def execXform (s : State) : Host.Outcome State Fault Refusal := engineTurn xformResult s

/-- The engine's turn on an ENC (R241). -/
def execEnc (s : State) : Host.Outcome State Fault Refusal := engineTurn encResult s

/-- The engine's turn on a DEC (R242). -/
def execDec (s : State) : Host.Outcome State Fault Refusal := engineTurn decResult s

end Sys2Proof.Machine
end

