-- ==== Sys2Proof/Machine/Divide.lean ====
section
/-! DEFINITION. The divider: DIV (40_divide.md). -/

namespace Sys2Proof.Machine

/-- DIV on the register values read at acceptance (R141). -/
def divResult (r : Snapshot) (_ : List Word) : ExecResult :=
  if r.opn = 0 then .fin (errorOutcome .divisionByZero)
  else
    let qr := divide r.opa.toNat r.opn.toNat
    .fin (success (toWord qr.1) (toWord qr.2))

/-- The engine's turn on a DIV (R141). -/
def execDiv (s : State) : Host.Outcome State Fault Refusal := engineTurn divResult s

end Sys2Proof.Machine
end

