-- ==== Sys2Proof/Machine/Gcd.lean ====
section
/-! DEFINITION. The greatest common divisor solver: GCD (43_gcd.md). -/

namespace Sys2Proof.Machine

/-- GCD (R181): it cannot fail. -/
def gcdResult (r : Snapshot) (_ : List Word) : ExecResult :=
  .fin (success (toWord (gcdOf r.opa.toNat r.opb.toNat)) 0)

/-- The engine's turn on a GCD (R181). -/
def execGcd (s : State) : Host.Outcome State Fault Refusal := engineTurn gcdResult s

end Sys2Proof.Machine
end

