-- ==== Sys2Proof/Machine/Primality.lean ====
section
/-! DEFINITION. The Miller–Rabin primality tester: ISPRIME (44_primality.md R190, whose line numbers are cited). -/

namespace Sys2Proof.Machine

/-- Lines 4 and 5, from `d` and `s`: halve `d` while it is even, counting in `s`. The first argument bounds the
halvings; 32 are enough for a Word (R192). -/
def factorTwos : Nat → Nat → Nat → Nat × Nat
  | 0, d, s => (d, s)
  | k + 1, d, s => if d % 2 = 0 then factorTwos k (d / 2) (s + 1) else (d, s)

/-- Lines 12 to 16 with `k` squarings left: does `c - 1` appear among the next `k` squares of `x`? -/
def squaresReach (c : Nat) : Nat → Nat → Bool
  | 0, _ => false
  | k + 1, x => if mulmod x x c = c - 1 then true else squaresReach c k (mulmod x x c)

/-- Lines 9 to 16: does the candidate `c`, with `c - 1 = d * 2^s`, pass the round of the witness `a`? -/
def witnessPasses (c d s a : Nat) : Bool :=
  if gcdOf a c = 1 then
    if powmod a d c = 1 ∨ powmod a d c = c - 1 then true else squaresReach c (s - 1) (powmod a d c)
  else false

/-- The witness of a draw, `scale(u, 2, c)` (line 8, R194). -/
def witness (u : Word) (c : Nat) : Nat := scale u.toNat 2 c

/-- Lines 6 to 17 with this many rounds left: each round consumes one draw before anything else (R195). -/
def rounds (c d s : Nat) : Nat → List Word → Run Bool
  | 0, draws => .done true draws
  | _ + 1, [] => .more
  | k + 1, u :: rest => if witnessPasses c d s (witness u c) then rounds c d s k rest else .done false rest

/-- `isprime(c, R, draws)` (R190). -/
def isprime (c numRounds : Nat) (draws : List Word) : Run Bool :=
  if c = 0 then .done false draws
  else if c % 2 = 0 then .done (decide (c = 2)) draws
  else if c = 1 then .done false draws
  else
    let ds := factorTwos Config.width (c - 1) 0
    rounds c ds.1 ds.2 numRounds draws

/-- ISPRIME (R191): `RES0` is 1 for true and 0 for false. -/
def isprimeResult (r : Snapshot) (draws : List Word) : ExecResult :=
  match isprime r.opa.toNat r.opb.toNat draws with
  | .more => .more
  | .raise e => .fin (errorOutcome e)
  | .done b _ => .fin (success (if b then 1 else 0) 0)

/-- The engine's turn on an ISPRIME: a draw step or the completion step (R191). -/
def execIsprime (s : State) : Host.Outcome State Fault Refusal := engineTurn isprimeResult s

end Sys2Proof.Machine
end

