-- ==== Sys2Proof/Machine/KeyGen.lean ====
section
/-! DEFINITION. The RSA key generator: KEYGEN (46_keygen.md R220, whose line numbers are cited). -/

namespace Sys2Proof.Machine

/-- Lines 1 to 8 and 10 to 17: draw candidates `scale(u, lo, hi)` until one passes the cheap tests `cheap` and then
`isprime(c, KG_ROUNDS)`. The first argument is `KG_ATTEMPTS - tries`: at 0 one more candidate would exceed the cap
(R228). The cheap tests come first and a candidate they reject costs one draw (R222, R223). -/
def drawPrime (cheap : Nat → Bool) (lo hi : Nat) : Nat → List Word → Run Nat
  | 0, _ => .raise .attemptsExceeded
  | _ + 1, [] => .more
  | k + 1, u :: rest =>
    let c := scale u.toNat lo hi
    if cheap c then
      match isprime c Config.kgRounds rest with
      | .more => .more
      | .raise e => .raise e
      | .done b rest' => if b then .done c rest' else drawPrime cheap lo hi k rest'
    else drawPrime cheap lo hi k rest

/-- Lines 20 to 26: draw `scale(u, 2, phi)` until it is coprime to `phi` (R225); the cap as in `drawPrime`. -/
def drawExponent (phi : Nat) : Nat → List Word → Run Nat
  | 0, _ => .raise .attemptsExceeded
  | _ + 1, [] => .more
  | k + 1, u :: rest =>
    let c := scale u.toNat 2 phi
    if gcdOf c phi = 1 then .done c rest else drawExponent phi k rest

/-- Step 1 (lines 1 to 8, R222): the prime `p`. -/
def drawP (kg : KgConfig) (draws : List Word) : Run Nat :=
  drawPrime (fun c => decide (kg.min.toNat < c)) kg.lo.toNat kg.hi.toNat kg.attempts.toNat draws

/-- Step 2 (lines 9 to 17, R223): the prime `q`, with `q_ub = MAX div p`. -/
def drawQ (kg : KgConfig) (p : Nat) (draws : List Word) : Run Nat :=
  drawPrime (fun c => decide (kg.min.toNat < c ∧ c ≤ Config.maxWord / p ∧ c ≠ p)) kg.lo.toNat kg.hi.toNat
    kg.attempts.toNat draws

/-- `phi` (line 19, R224). -/
def totient (p q : Nat) : Nat := (p - 1) * (q - 1)

/-- Steps 5 and 6 (lines 27 to 29): the private exponent, the check of R227, and the KeyPair. -/
def finishKey (p q e : Nat) (draws : List Word) : Run KeyFile :=
  let d := inverse e (totient p q)
  if mulmod e d (totient p q) ≠ 1 then .raise .keyGenerationInvariant
  else .done ⟨toWord p, toWord q, toWord e, toWord d, toWord (p * q)⟩ draws

/-- `keygen(config, draws)` (R220). -/
def keygen (kg : KgConfig) (draws : List Word) : Run KeyFile :=
  (drawP kg draws).bind fun p afterP =>
    (drawQ kg p afterP).bind fun q afterQ =>
      (drawExponent (totient p q) kg.attempts.toNat afterQ).bind fun e afterE => finishKey p q e afterE

/-- KEYGEN (R221): the key is carried by the outcome, success or failure (R229, R230). -/
def keygenResult (r : Snapshot) (draws : List Word) : ExecResult :=
  match keygen r.kg draws with
  | .more => .more
  | .raise e => .fin (keygenFailure e)
  | .done k _ => .fin (keygenSuccess k)

/-- The engine's turn on a KEYGEN: a draw step or the completion step (R221). -/
def execKeygen (s : State) : Host.Outcome State Fault Refusal := engineTurn keygenResult s

end Sys2Proof.Machine
end

