-- ==== Sys2Proof/Machine/ModInv.lean ====
section
/-! DEFINITION. The modular inverse solver: MODINV (45_modinv.md). -/

namespace Sys2Proof.Machine

/-- MODINV (R211): the zero modulus first, then non-coprime operands. -/
def modinvResult (r : Snapshot) (_ : List Word) : ExecResult :=
  if r.opn = 0 then .fin (errorOutcome .divisionByZero)
  else if gcdOf r.opa.toNat r.opn.toNat ≠ 1 then .fin (errorOutcome .inverseUndefined)
  else .fin (success (toWord (inverse r.opa.toNat r.opn.toNat)) 0)

/-- The engine's turn on a MODINV (R211). -/
def execModinv (s : State) : Host.Outcome State Fault Refusal := engineTurn modinvResult s

end Sys2Proof.Machine
end

