-- ==== Sys2Proof/Machine/ModPow.lean ====
section
/-! DEFINITION. The modular exponentiation engine: MODPOW (42_modpow.md). -/

namespace Sys2Proof.Machine

/-- MODPOW (R171). -/
def modpowResult (r : Snapshot) (_ : List Word) : ExecResult := modularResult powmodWord r

/-- The engine's turn on a MODPOW (R171). -/
def execModpow (s : State) : Host.Outcome State Fault Refusal := engineTurn modpowResult s

end Sys2Proof.Machine
end

