-- ==== Sys2Proof/Machine/Dispatch.lean ====
section
/-! DEFINITION. The engine's turn on each command: one arm per command (30_encoding.md R112). -/

namespace Sys2Proof.Machine

-- The engine's turn on command i in flight: a draw step or the completion step (20_memory.md R93, R94).
def exec (i : Instr) (s : State) : Host.Outcome State Fault Refusal :=
  match i with
  | .div => Sys2Proof.Machine.execDiv s
  | .modadd => Sys2Proof.Machine.execModadd s
  | .modsub => Sys2Proof.Machine.execModsub s
  | .modopInvalid fn => Sys2Proof.Machine.execModopInvalid fn s
  | .modmul => Sys2Proof.Machine.execModmul s
  | .modpow => Sys2Proof.Machine.execModpow s
  | .gcd => Sys2Proof.Machine.execGcd s
  | .isprime => Sys2Proof.Machine.execIsprime s
  | .modinv => Sys2Proof.Machine.execModinv s
  | .keygen => Sys2Proof.Machine.execKeygen s
  | .xform => Sys2Proof.Machine.execXform s
  | .enc => Sys2Proof.Machine.execEnc s
  | .dec => Sys2Proof.Machine.execDec s

end Sys2Proof.Machine
end

