-- ==== Sys2Proof/Machine/Illegal.lean ====
section
/-! DEFINITION. The command ILLEGAL: every word that encodes no command (30_encoding.md R115, R116). -/

namespace Sys2Proof.Machine

/-- ILLEGAL (R116): it reads no register and requests no draw. -/
def illegalResult (_ : Snapshot) (_ : List Word) : ExecResult := .fin (errorOutcome .illegalCommand)

/-- The engine's turn on an illegal word (R116). -/
def execIllegal (s : State) : Host.Outcome State Fault Refusal := engineTurn illegalResult s

end Sys2Proof.Machine
end

