-- ==== Sys2Proof/Machine/Engine.lean ====
section
/-! DEFINITION. The execution function of a command word, the draw request, the engine's step, and the steps of R95
assembled from them (10_state.md R47, R49; 20_memory.md R93 to R96). -/

namespace Sys2Proof.Machine

/-- The execution function of a command: the meaning R47 gives it on register values and draws. -/
def instrResult (i : Instr) (r : Snapshot) (draws : List Word) : ExecResult :=
  match i with
  | .div => divResult r draws
  | .modadd => modaddResult r draws
  | .modsub => modsubResult r draws
  | .modopInvalid _ => modopInvalidResult r draws
  | .modmul => modmulResult r draws
  | .modpow => modpowResult r draws
  | .gcd => gcdResult r draws
  | .isprime => isprimeResult r draws
  | .modinv => modinvResult r draws
  | .keygen => keygenResult r draws
  | .xform => xformResult r draws
  | .enc => encResult r draws
  | .dec => decResult r draws

/-- `exec(c, regs, draws)` (R47): total on all command words, illegal ones included (R116). -/
def commandResult (c : Word) (r : Snapshot) (draws : List Word) : ExecResult :=
  match decode c with
  | .ok i => instrResult i r draws
  | .error _ => illegalResult r draws

/-- `rng_req`, the draw-request output: 1 exactly when a command is in flight and its execution function asks for one
more draw (R49, R92). -/
def State.rngReq (s : State) : Bool :=
  match s.inFlight with
  | some ctx => commandResult ctx.word ctx.regs ctx.draws == .more
  | none => false

/-- The engine's step: decode the accepted word and take the turn of its command; a word that encodes no command
executes as ILLEGAL (R111, R116). In the idle phase the engine has no step. -/
def engineStep (s : State) : Host.Outcome State Fault Refusal :=
  match s.inFlight with
  | some ctx =>
    match decode ctx.word with
    | .ok i => exec i s
    | .error _ => execIllegal s
  | none => .next s

/-- A host transaction after the engine's turn of the same cycle. -/
def thenHost (t : HostTxn) (o : Host.Outcome State Fault Refusal) : Host.Outcome State Fault Refusal :=
  match o with
  | .next s => .next (s.hostTxn t)
  | .fault r => .fault r
  | .refused r => .refused r

/-- One step with the input `x`, `rest` being what the environment does later: exactly one of R95's steps, or the
coincidence of two in one clock cycle (R96); reset wins over everything (R283). -/
def inputStep (x : Input) (rest : List Input) (s : State) : Host.Outcome State Fault Refusal :=
  match x with
  | .host t => .next ((s.startStep rest none).hostTxn t)
  | .engine reply => engineStep (s.startStep rest reply)
  | .coincide t reply hostFirst =>
    if hostGoesFirst t hostFirst then engineStep ((s.startStep rest reply).hostTxn t)
    else thenHost t (engineStep (s.startStep rest reply))
  | .reset _ _ => .next (State.resetStep rest)

/-- A command word put in flight as the acceptance step puts it (R87), with the engine moving next. -/
def State.loadCommand (c : Word) (s : State) : State :=
  { s.accept c with inputs := .engine none :: s.inputs }

end Sys2Proof.Machine
end

