-- ==== Sys2Proof/Machine/Step.lean ====
section
/-! DEFINITION. The step: what the environment does next, or the engine's turn when the ports are quiet (20_memory.md R95, R99). -/

namespace Sys2Proof.Machine

/-- One step. The first input says which agent moves (R30); with no input the ports are quiet and the engine, which is
weakly fair (R99 (a)), takes its turn. -/
def step (s : State) : Host.Outcome State Fault Refusal :=
  match s.inputs with
  | x :: rest => inputStep x rest s
  | [] => inputStep (.engine none) [] s

/-- `s` with the command word of a table row accepted and the engine to move, so that the very next step runs that
command. The block fetches nothing (10_state.md R34): a command is supplied whole by the host. Log entry 2. -/
def State.withFetchWord (s : State) (nbits w : Nat) : State := s.loadCommand (tableWord nbits w)

end Sys2Proof.Machine
end

