-- ==== Sys2Proof/Machine/HostProgram.lean ====
section
/-! DEFINITION. The host-program notation as transactions: the pseudo-instructions and the names for values
(30_encoding.md R119 to R123). It is notation, not hardware: the step does not use it. -/

namespace Sys2Proof.Machine

/-- The pseudo-instructions of R123, one per command, with the values they write. -/
inductive Pseudo where
  | div (a n : Word)
  | modadd (a b n : Word)
  | modsub (a b n : Word)
  | modop (k : BitVec 4) (a b n : Word)
  | modmul (x y n : Word)
  | modpow (b e n : Word)
  | gcd (a b : Word)
  | isprime (c r : Word)
  | modinv (a m : Word)
  | keygen
  | xform (data key n : Word)
  | enc (data : Word)
  | dec (data : Word)
deriving DecidableEq, Repr

/-- `WR reg, value` (R119, R121). -/
def wr (r : Reg) (v : Word) : HostTxn := .write r.slot v

/-- The transactions of a pseudo-instruction up to its write of CMD (R123). `WAIT` follows: the host reads STATUS until
bit 0 is 0, an unspecified number of times (R122). -/
def Pseudo.transactions : Pseudo → List HostTxn
  | .div a n => [wr .opa a, wr .opn n, wr .cmd 0x10]
  | .modadd a b n => [wr .opa a, wr .opb b, wr .opn n, wr .cmd 0x20]
  | .modsub a b n => [wr .opa a, wr .opb b, wr .opn n, wr .cmd 0x21]
  | .modop k a b n => [wr .opa a, wr .opb b, wr .opn n, wr .cmd (0x20 + k.setWidth 32)]
  | .modmul x y n => [wr .opa x, wr .opb y, wr .opn n, wr .cmd 0x30]
  | .modpow b e n => [wr .opa b, wr .opb e, wr .opn n, wr .cmd 0x40]
  | .gcd a b => [wr .opa a, wr .opb b, wr .cmd 0x50]
  | .isprime c r => [wr .opa c, wr .opb r, wr .cmd 0x60]
  | .modinv a m => [wr .opa a, wr .opn m, wr .cmd 0x70]
  | .keygen => [wr .cmd 0x80]
  | .xform data key n => [wr .opa data, wr .opb key, wr .opn n, wr .cmd 0x90]
  | .enc data => [wr .opa data, wr .cmd 0x91]
  | .dec data => [wr .opa data, wr .cmd 0x92]

/-- The command a pseudo-instruction issues (R123): operators 0 and 1 of `MODOP` are Add and Subtract (R113). -/
def Pseudo.instr : Pseudo → Instr
  | .div _ _ => .div
  | .modadd _ _ _ => .modadd
  | .modsub _ _ _ => .modsub
  | .modop k _ _ _ => if k = 0 then .modadd else if k = 1 then .modsub else .modopInvalid k
  | .modmul _ _ _ => .modmul
  | .modpow _ _ _ => .modpow
  | .gcd _ _ => .gcd
  | .isprime _ _ => .isprime
  | .modinv _ _ => .modinv
  | .keygen => .keygen
  | .xform _ _ _ => .xform
  | .enc _ => .enc
  | .dec _ => .dec

/-- The state with the operand registers a pseudo-instruction writes written (R123), and no others. -/
def Pseudo.operands (x : Pseudo) (s : State) : State :=
  match x with
  | .div a n | .modinv a n => { s with opa := a, opn := n }
  | .modadd a b n | .modsub a b n | .modop _ a b n | .modmul a b n | .modpow a b n | .xform a b n =>
    { s with opa := a, opb := b, opn := n }
  | .gcd a b | .isprime a b => { s with opa := a, opb := b }
  | .enc a | .dec a => { s with opa := a }
  | .keygen => s

/-- The host performs these transactions in order, no engine turn between them (R119; 20_memory.md R95). -/
def State.hostRun (s : State) (txns : List HostTxn) : State := txns.foldl (fun s t => s.hostTxn t) s

/-- `WAIT` may stop on this state: the value a read of STATUS returns has bit 0 (BUSY) = 0 (R122). -/
def State.waitDone (s : State) : Bool := !(s.memRead Reg.status.slot).getLsbD 0

/-- `CLR mask`, the W1C write of the bits of `mask` (R122). -/
def clr (mask : Word) : HostTxn := wr .status mask

/-- The STATUS masks of R120. -/
def stBusy : Word := 0x01
/-- `ST_DONE` (R120). -/
def stDone : Word := 0x02
/-- `ST_ERR` (R120). -/
def stErr : Word := 0x04
/-- `ST_OVR` (R120). -/
def stOvr : Word := 0x08
/-- `ST_KEYVALID` (R120). -/
def stKeyValid : Word := 0x10

/-- `EXPECT reg = value`: the claim that a read of the register returns `value` (R119). -/
def State.expect (s : State) (r : Reg) (value : Word) : Bool := s.readReg r == value

/-- The host sequence recommended for one command, between the first `WAIT` and the second (70_reset_and_hazards.md
R290): clear the flags, write the operands and CMD. -/
def Pseudo.recommended (x : Pseudo) : List HostTxn := clr (stDone ||| stErr ||| stOvr) :: x.transactions

/-- The reads that fetch the outcome after the second `WAIT` (R290, R123). -/
def outcomeReads : List HostTxn :=
  [.read Reg.status.slot, .read Reg.errCode.slot, .read Reg.res0.slot, .read Reg.res1.slot]

end Sys2Proof.Machine
end

