-- ==== Sys2Proof/Machine/Reference.lean ====
section
/-! DEFINITION. The reference methods the document describes, in 32-bit arithmetic that wraps: informative beside the
result rules (00_scope.md R15). Nothing of the step uses them; that they return the result rules' values is for proof. -/

namespace Sys2Proof.Machine.Reference

/-- `MAX` as a Word. -/
def maxW : Word := 0xFFFFFFFF

/-- Successive subtraction (40_divide.md R142) from quotient `q` and remainder `r`: `q <- 0 ; r <- a` at first. The
first argument bounds the passes. -/
def subtractLoop (n : Word) : Nat → Word → Word → Word × Word
  | 0, q, r => (q, r)
  | k + 1, q, r => if n ≤ r then subtractLoop n k (q + 1) (r - n) else (q, r)

/-- The divider by successive subtraction (R142): at most `a` passes, since each lowers `r` by at least 1. -/
def divide (a n : Word) : Word × Word := subtractLoop n a.toNat 0 a

/-- The adder of R151, on reduced operands, with the strict overflow test (90_conflicts.md C1). -/
def addReduced (a' b' n : Word) : Word :=
  if maxW - b' < a' then (maxW % n + 1 + (a' + b') % n) % n else (a' + b') % n

/-- The modular adder (41_modular_arithmetic.md R151). -/
def addmod (a b n : Word) : Word := addReduced (a % n) (b % n) n

/-- The document's overflow test `a' ≥ MAX − b'`, which 90_conflicts.md C1 overrules; kept to show where it is wrong. -/
def addmodLoose (a b n : Word) : Word :=
  if maxW - b % n ≤ a % n then (maxW % n + 1 + (a % n + b % n) % n) % n else (a % n + b % n) % n

/-- The modular subtractor (R154). -/
def submod (a b n : Word) : Word :=
  if a % n < b % n then n - (maxW - (a % n - b % n) + 1) else (a % n - b % n) % n

/-- Doubling and adding over the bits of `y` from bit `i` up, `k` of them (R158). -/
def mulmodBits (n y : Word) : Nat → Nat → Word → Word → Word
  | 0, _, _, acc => acc
  | k + 1, i, t, acc =>
    let t' := if i = 0 then t else addmod t t n
    mulmodBits n y k (i + 1) t' (if y.getLsbD i then addmod acc t' n else acc)

/-- The modular multiplier (R158). -/
def mulmod (x y n : Word) : Word := mulmodBits n y Config.width 0 (x % n) 0

/-- Square-and-multiply over the bits of `e` from bit `i` up, `k` of them, each product by the multiplier of R158
(42_modpow.md R172). -/
def powmodBits (n e : Word) : Nat → Nat → Word → Word → Word
  | 0, _, _, acc => acc
  | k + 1, i, sq, acc =>
    let sq' := if i = 0 then sq else mulmod sq sq n
    powmodBits n e k (i + 1) sq' (if e.getLsbD i then mulmod acc sq' n else acc)

/-- The modular exponentiation (R172). -/
def powmod (b e n : Word) : Word := powmodBits n e Config.width 0 (b % n) (1 % n)

/-- The classic Euclidean algorithm (43_gcd.md R182). The first argument bounds the passes; the second operand strictly
decreases. -/
def gcdLoop : Nat → Word → Word → Word
  | 0, a, _ => a
  | k + 1, a, b => if b = 0 then a else gcdLoop k b (a % b)

/-- The greatest common divisor (R182). -/
def gcd (a b : Word) : Word := gcdLoop (b.toNat + 1) a b

/-- The extended Euclidean iteration in Words, the coefficient update by the multiplier and the subtractor above
(45_modinv.md R212). -/
def xgcdLoop (m : Word) : Nat → Word → Word → Word → Word → Word × Word
  | 0, r0, _, x0, _ => (r0, x0 % m)
  | k + 1, r0, r1, x0, x1 =>
    if r1 = 0 then (r0, x0 % m)
    else xgcdLoop m k r1 (r0 % r1) x1 (submod x0 (mulmod (r0 / r1) x1 m) m)

/-- `xgcd(a, M)` (R212): the greatest common divisor and a Bézout coefficient. -/
def xgcd (a m : Word) : Word × Word := xgcdLoop m m.toNat a m 1 0

end Sys2Proof.Machine.Reference
end

