-- ==== Sys2Proof/Safety.lean ====
section
/-! DEFINITION. The invariants of every reachable state (10_state.md R33, R44, R46, R53), as claims use them. -/

namespace Sys2Proof.Machine

/-- The block's own part of the state (R31, R46): the state with the environment's ports quiet (log entries 1 and 3). -/
def State.block (s : State) : State := { s with inputs := [], rngIn := none, hostRead := none }

/-- The KeyPair invariants that do not name the configuration or the draws (46_keygen.md R231 (b), (d), (e), (f), and
`p, q >= 2` of R224). -/
structure KeyFile.Valid (k : KeyFile) : Prop where
  p_ge : 2 ≤ k.p.toNat
  q_ge : 2 ≤ k.q.toNat
  distinct : k.p ≠ k.q
  n_eq : k.n.toNat = k.p.toNat * k.q.toNat
  e_ge : 2 ≤ k.e.toNat
  e_lt : k.e.toNat < totient k.p.toNat k.q.toNat
  e_coprime : Nat.gcd k.e.toNat (totient k.p.toNat k.q.toNat) = 1
  d_ge : 1 ≤ k.d.toNat
  d_lt : k.d.toNat < totient k.p.toNat k.q.toNat
  inverse : k.e.toNat * k.d.toNat % totient k.p.toNat k.q.toNat = 1

/-- The key-file invariant (R44). -/
def State.KeysOk (s : State) : Prop :=
  (s.keyValid = false → s.keys = KeyFile.zero) ∧ (s.keyValid = true → s.keys.Valid)

/-- What holds of the command in flight: its word is CMD and its operand values are the registers (R46 (a), (b); R33),
the flags of the previous command are clear (R53 (a)), and none of the draws was taken that it did not ask for (R93). -/
structure State.FlightOk (s : State) (ctx : InFlight) : Prop where
  word_eq : ctx.word = s.cmd
  regs_eq : ctx.regs = s.snapshot
  done_clear : s.done = false
  err_clear : s.err = false
  code_clear : s.errCode = 0
  draws_asked : ∀ k < ctx.draws.length, commandResult ctx.word ctx.regs (ctx.draws.take k) = .more

/-- The invariant of every reachable state (R53, R44). -/
structure State.Inv (s : State) : Prop where
  keys_ok : s.KeysOk
  code_le : s.errCode.toNat ≤ 7
  flight_ok : ∀ ctx, s.inFlight = some ctx → s.FlightOk ctx

/-- A state some finite run of the block from reset reaches, whatever the environment does (R53, R281): the environment's
inputs are chosen before each step. -/
inductive Reachable : State → Prop where
  | reset : Reachable State.reset
  | step (s t : State) (x : Input) : Reachable s → inputStep x [] s = .next t → Reachable t

/-- `n` steps, each taking the next element of `inputs` (log entry 1), stopping at the first fault or refusal. -/
def State.run : Nat → State → Host.Outcome State Fault Refusal
  | 0, s => .next s
  | n + 1, s =>
    match step s with
    | .next t => t.run n
    | .fault r => .fault r
    | .refused r => .refused r

/-- The engine's turn in a step, with what the collaborator offers in it; absent where the engine takes none. -/
def Input.engineReply : Input → Option (Option Word)
  | .engine reply => some reply
  | .coincide _ reply _ => some reply
  | .host _ | .reset _ _ => none

/-- `env` and `trace` are an execution of the block without end and without reset (20_memory.md R95). -/
def EndlessRun (env : Nat → Input) (trace : Nat → State) : Prop :=
  ∀ k, (∀ t reply, env k ≠ .reset t reply) ∧ inputStep (env k) [] (trace k) = .next (trace (k + 1))

/-- R99 (a): the engine is weakly fair: a completion step that is enabled is eventually taken. -/
def EngineFair (env : Nat → Input) (trace : Nat → State) : Prop :=
  ∀ k, (trace k).busy = true → (trace k).rngReq = false → ∃ m ≥ k, (env m).engineReply ≠ none

/-- R99 (b): the collaborator is live: a draw request is eventually answered. -/
def CollaboratorLive (env : Nat → Input) (trace : Nat → State) : Prop :=
  ∀ k, (trace k).rngReq = true → ∃ m ≥ k, ∃ u, (env m).engineReply = some (some u)

/-- `a` is a strong witness for the odd number `c`: coprime to `c`, and with `c - 1 = d * 2^e`, `d` odd, its power `a^d`
is 1 or one of `a^d`, `a^(2d)`, ..., `a^(2^(e-1) d)` is `c - 1`, modulo `c` (44_primality.md R190 lines 9 to 16, over the
naturals). -/
def StrongWitness (c a : Nat) : Prop :=
  Nat.gcd a c = 1 ∧ ∃ d e : Nat, c - 1 = d * 2 ^ e ∧ d % 2 = 1 ∧
    (a ^ d % c = 1 ∨ ∃ j < e, a ^ (d * 2 ^ j) % c = c - 1)

/-! ### The loops of key generation, as relations (46_keygen.md R220) -/

/-- One run of a prime loop of KEYGEN (R220 lines 1 to 8 and 10 to 17; R222, R223, R228) with this many attempts left,
from the first list of draws to the second: it ends with the candidate it takes, or with none when one more candidate
would exceed the attempts. `cheap` is the loop's cheap test. -/
inductive PrimeSearch (cheap : Nat → Prop) (lo hi : Nat) : Nat → List Word → Option Nat → List Word → Prop where
  /-- Lines 3 and 12: no attempt is left. -/
  | exhausted (draws : List Word) : PrimeSearch cheap lo hi 0 draws none draws
  /-- A candidate that fails the cheap test costs one attempt and one draw, and no primality test. -/
  | tooCheap (k : Nat) (u : Word) (draws rest : List Word) (r : Option Nat) :
      ¬ cheap (lo + u.toNat * (hi - lo) / 2 ^ 32) → PrimeSearch cheap lo hi k draws r rest →
      PrimeSearch cheap lo hi (k + 1) (u :: draws) r rest
  /-- A candidate that passes the cheap test and fails the primality test costs one attempt, its draw and the test's. -/
  | notPrime (k : Nat) (u : Word) (draws tested rest : List Word) (r : Option Nat) :
      cheap (lo + u.toNat * (hi - lo) / 2 ^ 32) →
      isprime (lo + u.toNat * (hi - lo) / 2 ^ 32) 100 draws = .done false tested →
      PrimeSearch cheap lo hi k tested r rest → PrimeSearch cheap lo hi (k + 1) (u :: draws) r rest
  /-- A candidate that passes both is taken; the loop is left. -/
  | taken (k : Nat) (u : Word) (draws rest : List Word) : cheap (lo + u.toNat * (hi - lo) / 2 ^ 32) →
      isprime (lo + u.toNat * (hi - lo) / 2 ^ 32) 100 draws = .done true rest →
      PrimeSearch cheap lo hi (k + 1) (u :: draws) (some (lo + u.toNat * (hi - lo) / 2 ^ 32)) rest

/-- One run of the exponent loop of KEYGEN (R220 lines 20 to 26; R225, R228), as `PrimeSearch`. -/
inductive ExponentSearch (phi : Nat) : Nat → List Word → Option Nat → List Word → Prop where
  /-- Line 22: no attempt is left. -/
  | exhausted (draws : List Word) : ExponentSearch phi 0 draws none draws
  /-- A candidate with a factor in common with `phi` costs one attempt and one draw. -/
  | commonFactor (k : Nat) (u : Word) (draws rest : List Word) (r : Option Nat) :
      Nat.gcd (2 + u.toNat * (phi - 2) / 2 ^ 32) phi ≠ 1 → ExponentSearch phi k draws r rest →
      ExponentSearch phi (k + 1) (u :: draws) r rest
  /-- The first candidate coprime to `phi` is taken. -/
  | taken (k : Nat) (u : Word) (draws : List Word) : Nat.gcd (2 + u.toNat * (phi - 2) / 2 ^ 32) phi = 1 →
      ExponentSearch phi (k + 1) (u :: draws) (some (2 + u.toNat * (phi - 2) / 2 ^ 32)) draws

/-- The loop for `p` (R220 lines 1 to 8, R222). -/
def SearchP (kg : KgConfig) : List Word → Option Nat → List Word → Prop :=
  PrimeSearch (fun c => kg.min.toNat < c) kg.lo.toNat kg.hi.toNat kg.attempts.toNat

/-- The loop for `q` (R220 lines 9 to 17, R223), after `p`: also `q <= MAX div p` and `q != p`. -/
def SearchQ (kg : KgConfig) (p : Nat) : List Word → Option Nat → List Word → Prop :=
  PrimeSearch (fun c => kg.min.toNat < c ∧ c ≤ (2 ^ 32 - 1) / p ∧ c ≠ p) kg.lo.toNat kg.hi.toNat kg.attempts.toNat

/-- KEYGEN succeeds on these draws with this key and leaves `rest` (R220): the three loops take `p`, `q` and `e` one
after the other, `n` is their product and `d` the inverse of `e`. -/
def KeygenSucceeds (kg : KgConfig) (draws : List Word) (k : KeyFile) (rest : List Word) : Prop :=
  ∃ afterP afterQ : List Word, SearchP kg draws (some k.p.toNat) afterP ∧
    SearchQ kg k.p.toNat afterP (some k.q.toNat) afterQ ∧
    ExponentSearch ((k.p.toNat - 1) * (k.q.toNat - 1)) kg.attempts.toNat afterQ (some k.e.toNat) rest ∧
    k.n.toNat = k.p.toNat * k.q.toNat ∧ k.d.toNat < (k.p.toNat - 1) * (k.q.toNat - 1) ∧
    k.e.toNat * k.d.toNat % ((k.p.toNat - 1) * (k.q.toNat - 1)) = 1

/-- KEYGEN runs out of attempts on these draws, in one of its three loops (R220 lines 3, 12, 22; R228). -/
def KeygenExhausts (kg : KgConfig) (draws : List Word) : Prop :=
  (∃ rest, SearchP kg draws none rest) ∨
  (∃ p afterP rest, SearchP kg draws (some p) afterP ∧ SearchQ kg p afterP none rest) ∨
  (∃ p q afterP afterQ rest, SearchP kg draws (some p) afterP ∧ SearchQ kg p afterP (some q) afterQ ∧
    ExponentSearch ((p - 1) * (q - 1)) kg.attempts.toNat afterQ none rest)

/-- The first `k` draws of an infinite stream (10_state.md R47, R51). -/
def drawPrefix (stream : Nat → Word) (k : Nat) : List Word := (List.range k).map stream

/-- The codes a command may end with (60_exceptions.md R260), without KEYGEN's unreachable code 4 (R254). -/
def allowedCodes : Except DecodeReject Instr → List (BitVec 4)
  | .error _ => [6]
  | .ok i =>
    match i with
    | .div | .modadd | .modsub | .modmul | .modpow | .xform => [0, 2]
    | .modopInvalid _ => [1]
    | .gcd | .isprime => [0]
    | .modinv => [0, 2, 3]
    | .keygen => [0, 5]
    | .enc | .dec => [0, 7]

end Sys2Proof.Machine
end

