-- ==== Sys2Proof/Certificates/Slice0/Obligations.lean ====
section
/-! DEFINITION. The statements for the provers: what the spec's numbered rules say the block does.
A step that an agent takes is given by the first element of `inputs` (log entry 1: `.host` is a host transaction, `.engine`
the engine's turn with what the collaborator offers, `.coincide` both in one cycle, `.reset` a reset). What a step does to
the block is stated on `State.block`, which leaves the model's own port fields out (log entry 3). -/

open Sys2Proof Sys2Proof.Machine

/-! ### The command word -/

/-- A few command words, written out from the fields RSV, UNIT, FN of R110, decode to what R111 lists for them. (The two
names of ILLEGAL are the model's, log entry 12.) -/
def Obligations.CommandWordsDecode : Prop :=
  decode (0#24 ++ 1#4 ++ 0#4) = .ok .div ∧ decode (0#24 ++ 2#4 ++ 11#4) = .ok (.modopInvalid 11) ∧
  decode (0#24 ++ 6#4 ++ 0#4) = .ok .isprime ∧ decode (0#24 ++ 8#4 ++ 0#4) = .ok .keygen ∧
  decode (0#24 ++ 9#4 ++ 2#4) = .ok .dec ∧ decode 0 = .error .noSuchOpcode ∧
  decode (1#24 ++ 1#4 ++ 0#4) = .error .reservedBits

/-- `decode(c)` on every Word, the case table of R111. R111 has one ILLEGAL; that the two kinds of illegal word are told
apart by the names `.reservedBits` and `.noSuchOpcode` is the model's choice (log entry 12). -/
def Obligations.DecodeIsTheCaseTable : Prop :=
  ∀ c : Word, decode c =
    if 256 ≤ c.toNat then .error .reservedBits
    else if c.toNat = 0x10 then .ok .div
    else if c.toNat = 0x20 then .ok .modadd
    else if c.toNat = 0x21 then .ok .modsub
    else if 0x22 ≤ c.toNat ∧ c.toNat ≤ 0x2F then .ok (.modopInvalid (BitVec.ofNat 4 (c.toNat - 0x20)))
    else if c.toNat = 0x30 then .ok .modmul
    else if c.toNat = 0x40 then .ok .modpow
    else if c.toNat = 0x50 then .ok .gcd
    else if c.toNat = 0x60 then .ok .isprime
    else if c.toNat = 0x70 then .ok .modinv
    else if c.toNat = 0x80 then .ok .keygen
    else if c.toNat = 0x90 then .ok .xform
    else if c.toNat = 0x91 then .ok .enc
    else if c.toNat = 0x92 then .ok .dec
    else .error .noSuchOpcode

/-- R112: the rows of the opcode map are disjoint, a selected row names the decoded command, and a word that selects
no row is ILLEGAL. -/
def Obligations.OpcodeRowsNameTheDecodedCommand : Prop :=
  ∀ c : Word,
    (∀ r₁ ∈ opcodeTable, ∀ r₂ ∈ opcodeTable, r₁.selects c = true → r₂.selects c = true → r₁ = r₂) ∧
    (∀ r ∈ opcodeTable, r.selects c = true → ∃ i, decode c = .ok i ∧ mnemonic i = r.mnemonic) ∧
    ((∀ r ∈ opcodeTable, r.selects c = false) → ∃ e, decode c = .error e)

/-- Decoding and encoding agree in both directions, on every Word and every command. -/
def Obligations.DecodeAndEncodeAgree : Prop :=
  ∀ (c : Word) (i : Instr), decode c = .ok i ↔ i.WellFormed ∧ encode i = c

/-- R115, R116: the illegal space, and what an illegal word does: code 6, results 0, whatever the registers and draws
hold, the key registers and KEYVALID untouched. -/
def Obligations.IllegalWordEndsWithCodeSix : Prop :=
  (∀ c : Word, (∃ e, decode c = .error e) ↔
    (256 ≤ c.toNat ∨ c.toNat ≤ 0x0F ∨ (0x11 ≤ c.toNat ∧ c.toNat ≤ 0x1F) ∨ (0x31 ≤ c.toNat ∧ c.toNat ≤ 0x3F) ∨
      (0x41 ≤ c.toNat ∧ c.toNat ≤ 0x4F) ∨ (0x51 ≤ c.toNat ∧ c.toNat ≤ 0x5F) ∨ (0x61 ≤ c.toNat ∧ c.toNat ≤ 0x6F) ∨
      (0x71 ≤ c.toNat ∧ c.toNat ≤ 0x7F) ∨ (0x81 ≤ c.toNat ∧ c.toNat ≤ 0x8F) ∨ 0x93 ≤ c.toNat)) ∧
  ∀ (s : State) (ctx : InFlight) (e : DecodeReject) (reply : Option Word) (rest : List Input),
    s.inFlight = some ctx → decode ctx.word = .error e → s.inputs = .engine reply :: rest →
    ∃ t, step s = .next t ∧ t.block = { s.block with
      inFlight := none, done := true, err := true, errCode := 6, res0 := 0, res1 := 0 }

/-! ### Steps, reset and the invariant -/

/-- A step of the engine runs the decoded command: with an engine input, or with quiet ports, the step is exec of the
accepted word's command on the state with the ports of this step. A table row's word put in flight by withFetchWord runs
in the very next step. -/
def Obligations.StepRunsTheAcceptedCommand : Prop :=
  (∀ (s : State) (ctx : InFlight) (i : Instr), s.inFlight = some ctx → decode ctx.word = .ok i →
    (s.inputs = [] → step s = exec i { s with rngIn := none, hostRead := none }) ∧
    (∀ reply rest, s.inputs = .engine reply :: rest →
      step s = exec i { s with inputs := rest, rngIn := reply, hostRead := none })) ∧
  (∀ (s : State) (nbits w : Nat) (i : Instr), decodeTableWord nbits w = some i →
    step (s.withFetchWord nbits w) = exec i { s.accept (tableWord nbits w) with rngIn := none, hostRead := none })

/-- R286: there is no unpredictable behaviour: from every state, whatever the environment does, the step goes on to a
next state. -/
def Obligations.EveryStepGoesOn : Prop := ∀ s : State, ∃ t, step s = .next t

/-- R52: what every register, the phase and the outputs are after reset. -/
def Obligations.ResetLeavesTheResetValues : Prop :=
  (∀ i : Slot, State.reset.memRead i =
    if i = 15 then 0x00010000 else if i = 16 then 0x00008000 else if i = 17 then 0x00001000 else 0) ∧
  State.reset.inFlight = none ∧ State.reset.irq = false ∧ State.reset.rngReq = false

/-- R280, R283: a reset input puts any state at the reset values, whatever else happens in the same cycle; a command in
flight is abandoned. -/
def Obligations.ResetStepWinsFromAnyState : Prop :=
  ∀ (s : State) (t : Option HostTxn) (reply : Option Word) (rest : List Input),
    s.inputs = .reset t reply :: rest → ∃ u, step s = .next u ∧ u.block = State.reset

/-- The invariant of R53 and R44 holds at reset. -/
def Obligations.InvariantHoldsAtReset : Prop := State.reset.Inv

/-- The invariant of R53 and R44 is kept by every step, whatever the environment does. -/
def Obligations.EveryStepKeepsTheInvariant : Prop := ∀ s t : State, s.Inv → step s = .next t → t.Inv

/-- R53 on every reachable state, as the host sees it through the register space: (a) BUSY implies DONE, ERR and ERRCODE
0; (b) ERRCODE at most 7; (c) reserved bits and slots read 0; (d) the key registers are 0 while KEYVALID is 0; (e)
KEYVALID implies KEY_N = KEY_P * KEY_Q, at least 6. -/
def Obligations.ReachableStatesReadConsistently : Prop :=
  ∀ s : State, Reachable s →
    ((s.memRead 1).getLsbD 0 = true → (s.memRead 1).getLsbD 1 = false ∧ (s.memRead 1).getLsbD 2 = false ∧
      s.memRead 3 = 0) ∧
    (s.memRead 3).toNat ≤ 7 ∧
    ((s.memRead 0).toNat ≤ 1 ∧ (s.memRead 1).toNat < 32 ∧ ∀ i : Slot, 18 ≤ i.toNat → s.memRead i = 0) ∧
    ((s.memRead 1).getLsbD 4 = false → ∀ i : Slot, 9 ≤ i.toNat → i.toNat ≤ 13 → s.memRead i = 0) ∧
    ((s.memRead 1).getLsbD 4 = true →
      (s.memRead 13).toNat = (s.memRead 9).toNat * (s.memRead 10).toNat ∧ 6 ≤ (s.memRead 13).toNat)

/-! ### The host port -/

/-- R84 (and R83): what a read of each slot returns; a read changes nothing but the port that shows the value. -/
def Obligations.HostReadReturnsTheSlot : Prop :=
  ∀ (s : State) (i : Slot) (rest : List Input), s.inputs = .host (.read i) :: rest →
    ∃ (t : State) (v : Word), step s = .next t ∧ t.hostRead = some v ∧ t.block = s.block ∧
      (i = 0 → ∀ k, v.getLsbD k = (decide (k = 0) && s.ie)) ∧
      (i = 1 → ∀ k, v.getLsbD k = ((decide (k = 0) && s.inFlight.isSome) || (decide (k = 1) && s.done) ||
        (decide (k = 2) && s.err) || (decide (k = 3) && s.ovr) || (decide (k = 4) && s.keyValid))) ∧
      (i = 2 → v = s.cmd) ∧ (i = 3 → v.toNat = s.errCode.toNat) ∧
      (i = 4 → v = s.opa) ∧ (i = 5 → v = s.opb) ∧ (i = 6 → v = s.opn) ∧ (i = 7 → v = s.res0) ∧ (i = 8 → v = s.res1) ∧
      (i = 9 → v = s.keys.p) ∧ (i = 10 → v = s.keys.q) ∧ (i = 11 → v = s.keys.e) ∧ (i = 12 → v = s.keys.d) ∧
      (i = 13 → v = s.keys.n) ∧ (i = 14 → v = s.kg.lo) ∧ (i = 15 → v = s.kg.hi) ∧ (i = 16 → v = s.kg.min) ∧
      (i = 17 → v = s.kg.attempts) ∧ (18 ≤ i.toNat → v = 0)

/-- R86: writes to CTRL and STATUS, in either phase. -/
def Obligations.ControlAndStatusWrites : Prop :=
  ∀ (s : State) (v : Word) (rest : List Input),
    (s.inputs = .host (.write 0 v) :: rest →
      ∃ t, step s = .next t ∧ t.block = { s.block with ie := v.getLsbD 0 }) ∧
    (s.inputs = .host (.write 1 v) :: rest →
      ∃ t, step s = .next t ∧ t.block = { s.block with
        done := if v.getLsbD 1 then false else s.done
        err := if v.getLsbD 2 then false else s.err
        ovr := if v.getLsbD 3 then false else s.ovr })

/-- R87: the acceptance step, for every word, illegal ones included. -/
def Obligations.CommandWriteWhileIdleIsAccepted : Prop :=
  ∀ (s : State) (c : Word) (rest : List Input), s.inFlight = none → s.inputs = .host (.write 2 c) :: rest →
    ∃ t, step s = .next t ∧ t.block = { s.block with
      cmd := c, done := false, err := false, errCode := 0
      inFlight := some
        { word := c
          regs := ⟨s.opa, s.opb, s.opn, s.keys.e, s.keys.d, s.keys.n, s.keyValid, s.kg⟩
          draws := [] } }

/-- R88: a write to a guarded slot while a command is in flight is dropped and sets OVR; nothing else changes. OVR is
sticky: only a write of 1 to STATUS bit 3 or reset clears it. -/
def Obligations.GuardedWriteWhileBusyIsDropped : Prop :=
  (∀ (s : State) (ctx : InFlight) (i : Slot) (v : Word) (rest : List Input), s.inFlight = some ctx →
    (i = 2 ∨ i = 4 ∨ i = 5 ∨ i = 6 ∨ i = 14 ∨ i = 15 ∨ i = 16 ∨ i = 17) → s.inputs = .host (.write i v) :: rest →
    ∃ t, step s = .next t ∧ t.block = { s.block with ovr := true }) ∧
  ∀ s t : State, s.ovr = true → step s = .next t → t.ovr = false →
    (∃ h reply rest, s.inputs = .reset h reply :: rest) ∨
    ∃ v rest, v.getLsbD 3 = true ∧ (s.inputs = .host (.write 1 v) :: rest ∨
      ∃ reply hostFirst, s.inputs = .coincide (.write 1 v) reply hostFirst :: rest)

/-- R89: a write to an operand or configuration register while idle. -/
def Obligations.PlainWriteWhileIdleTakesEffect : Prop :=
  ∀ (s : State) (i : Slot) (v : Word) (rest : List Input), s.inFlight = none →
    s.inputs = .host (.write i v) :: rest →
    (i = 4 → ∃ t, step s = .next t ∧ t.block = { s.block with opa := v }) ∧
    (i = 5 → ∃ t, step s = .next t ∧ t.block = { s.block with opb := v }) ∧
    (i = 6 → ∃ t, step s = .next t ∧ t.block = { s.block with opn := v }) ∧
    (i = 14 → ∃ t, step s = .next t ∧ t.block = { s.block with kg := ⟨v, s.kg.hi, s.kg.min, s.kg.attempts⟩ }) ∧
    (i = 15 → ∃ t, step s = .next t ∧ t.block = { s.block with kg := ⟨s.kg.lo, v, s.kg.min, s.kg.attempts⟩ }) ∧
    (i = 16 → ∃ t, step s = .next t ∧ t.block = { s.block with kg := ⟨s.kg.lo, s.kg.hi, v, s.kg.attempts⟩ }) ∧
    (i = 17 → ∃ t, step s = .next t ∧ t.block = { s.block with kg := ⟨s.kg.lo, s.kg.hi, s.kg.min, v⟩ })

/-- R90: a write to a read-only or reserved slot changes nothing, in either phase, and does not set OVR. -/
def Obligations.ReadOnlyAndReservedWritesAreIgnored : Prop :=
  ∀ (s : State) (i : Slot) (v : Word) (rest : List Input),
    (i.toNat = 3 ∨ (7 ≤ i.toNat ∧ i.toNat ≤ 13) ∨ 18 ≤ i.toNat) → s.inputs = .host (.write i v) :: rest →
    ∃ t, step s = .next t ∧ t.block = s.block

/-- R97: no host transaction, however many, changes the command in flight, CMD, or what the command reads. -/
def Obligations.HostCannotDisturbTheCommandInFlight : Prop :=
  ∀ (s : State) (ctx : InFlight) (txns : List HostTxn), s.inFlight = some ctx →
    (s.hostRun txns).inFlight = some ctx ∧ (s.hostRun txns).cmd = s.cmd ∧ (s.hostRun txns).opa = s.opa ∧
    (s.hostRun txns).opb = s.opb ∧ (s.hostRun txns).opn = s.opn ∧ (s.hostRun txns).keys = s.keys ∧
    (s.hostRun txns).keyValid = s.keyValid ∧ (s.hostRun txns).kg = s.kg

/-- R96: a write to STATUS in the cycle of a completion: the state afterwards is that of the write followed by the
completion step, so the flags the completion sets are set. A write to CMD in that cycle: that of the completion step
followed by the write, so it is an acceptance. Both as the two steps in that order and as the whole block; `k` and `kv` are
the key registers and KEYVALID after the completion, which only a KEYGEN's outcome changes (R94). -/
def Obligations.SameCycleOrderIsAsTheSpecPicks : Prop :=
  ∀ (s : State) (ctx : InFlight) (o : CmdOutcome) (v : Word) (reply : Option Word) (hostFirst : Bool)
    (rest : List Input) (k : KeyFile) (kv : Bool),
    s.inFlight = some ctx → commandResult ctx.word ctx.regs ctx.draws = .fin o →
    k = o.key.getD s.keys → kv = (if o.key.isSome then o.err.isNone else s.keyValid) →
    (s.inputs = .coincide (.write 1 v) reply hostFirst :: rest →
      ∃ t h u, step s = .next t ∧
        step { s with inputs := .host (.write 1 v) :: .engine reply :: rest } = .next h ∧ step h = .next u ∧
        t.block = u.block ∧
        t.block = { s.block with
          inFlight := none, done := true, err := o.err.isSome, errCode := errorCode o.err
          ovr := s.ovr && !v.getLsbD 3, res0 := o.res0, res1 := o.res1, keys := k, keyValid := kv }) ∧
    (s.inputs = .coincide (.write 2 v) reply hostFirst :: rest →
      ∃ t h u, step s = .next t ∧
        step { s with inputs := .engine reply :: .host (.write 2 v) :: rest } = .next h ∧ step h = .next u ∧
        t.block = u.block ∧
        t.block = { s.block with
          inFlight := some ⟨v, ⟨s.opa, s.opb, s.opn, k.e, k.d, k.n, kv, s.kg⟩, []⟩
          cmd := v, done := false, err := false, errCode := 0, res0 := o.res0, res1 := o.res1, keys := k
          keyValid := kv })

/-! ### The interrupt line, the RNG port and completion -/

/-- R50, R256: irq is a level, `IE and DONE` at every moment: a completion raises it exactly when IE is 1; IE 0 masks it
without changing DONE; enabling while DONE is 1 raises it at once; writing 1 to STATUS bit 1 and an acceptance clear it. -/
def Obligations.InterruptLineIsEnableAndDone : Prop :=
  (∀ s : State, s.irq = (s.ie && s.done)) ∧
  (∀ (s : State) (ctx : InFlight) (o : CmdOutcome) (reply : Option Word) (rest : List Input),
    s.inFlight = some ctx → commandResult ctx.word ctx.regs ctx.draws = .fin o → s.inputs = .engine reply :: rest →
    ∃ t, step s = .next t ∧ t.irq = s.ie) ∧
  (∀ (s : State) (v : Word) (rest : List Input),
    (s.inputs = .host (.write 0 v) :: rest →
      ∃ t, step s = .next t ∧ t.done = s.done ∧ t.irq = (v.getLsbD 0 && s.done)) ∧
    (s.inputs = .host (.write 1 v) :: rest → v.getLsbD 1 = true → ∃ t, step s = .next t ∧ t.irq = false) ∧
    (s.inputs = .host (.write 2 v) :: rest → s.inFlight = none → ∃ t, step s = .next t ∧ t.irq = false))

/-- R92: a reply offered while no draw is requested is not taken and has no effect on the block. -/
def Obligations.UnrequestedReplyIsNotTaken : Prop :=
  ∀ (s : State) (u : Word) (rest : List Input), s.rngReq = false →
    ∃ t t', step { s with inputs := .engine none :: rest } = .next t ∧
      step { s with inputs := .engine (some u) :: rest } = .next t' ∧ t'.block = t.block

/-- R93: the draw step appends the reply to the draws, and nothing else changes. -/
def Obligations.DrawStepAppendsTheReply : Prop :=
  ∀ (s : State) (ctx : InFlight) (u : Word) (rest : List Input), s.inFlight = some ctx →
    commandResult ctx.word ctx.regs ctx.draws = .more → s.inputs = .engine (some u) :: rest →
    ∃ t, step s = .next t ∧ t.block = { s.block with inFlight := some ⟨ctx.word, ctx.regs, ctx.draws ++ [u]⟩ }

/-- R288: while a draw is requested and no reply comes, no host transaction and no time moves the block on: the command
stays in flight with its request, DONE and irq stay 0. Only a reply or reset ends it (the inputs left out). That an engine
turn without a reply is a step at all, one in which nothing happens, is log entry 6. -/
def Obligations.HangsUntilReplyOrReset : Prop :=
  ∀ (s : State) (x : Input) (rest : List Input), s.Inv → s.rngReq = true → s.inputs = x :: rest →
    ((∃ t, x = .host t) ∨ x = .engine none ∨ (∃ t hostFirst, x = .coincide t none hostFirst)) →
    ∃ t, step s = .next t ∧ t.inFlight = s.inFlight ∧ t.rngReq = true ∧ t.done = false ∧ t.irq = false

/-- R94 (and R48): the completion step, for every command word: all its writes together, the key registers only by
KEYGEN. -/
def Obligations.CompletionWritesTheOutcome : Prop :=
  ∀ (s : State) (ctx : InFlight) (o : CmdOutcome) (reply : Option Word) (rest : List Input),
    s.inFlight = some ctx → commandResult ctx.word ctx.regs ctx.draws = .fin o → s.inputs = .engine reply :: rest →
    (o.err.isSome = true → o.res0 = 0 ∧ o.res1 = 0) ∧
    (decode ctx.word = .ok .keygen → ∃ k t, o.key = some k ∧ step s = .next t ∧ t.block = { s.block with
      inFlight := none, done := true, err := o.err.isSome
      errCode := errorCode o.err, res0 := o.res0, res1 := o.res1, keys := k, keyValid := o.err.isNone }) ∧
    (decode ctx.word ≠ .ok .keygen → o.key = none ∧ ∃ t, step s = .next t ∧ t.block = { s.block with
      inFlight := none, done := true, err := o.err.isSome
      errCode := errorCode o.err, res0 := o.res0, res1 := o.res1 })

/-! ### The arithmetic commands -/

/-- R140, R141: DIV. -/
def Obligations.DivAnswersQuotientAndRemainder : Prop :=
  decode 0x00000010 = .ok .div ∧
  ∀ (s : State) (ctx : InFlight), s.inFlight = some ctx →
    (ctx.regs.opn = 0 → exec .div s = .next { s with
      inFlight := none, done := true, err := true, errCode := 2, res0 := 0, res1 := 0 }) ∧
    (ctx.regs.opn ≠ 0 → ∃ q r : Word, exec .div s = .next { s with
        inFlight := none, done := true, err := false, errCode := 0, res0 := q, res1 := r } ∧
      q.toNat = ctx.regs.opa.toNat / ctx.regs.opn.toNat ∧ r.toNat < ctx.regs.opn.toNat ∧
      ctx.regs.opa.toNat = q.toNat * ctx.regs.opn.toNat + r.toNat)

/-- R150, R152: MODADD. -/
def Obligations.ModaddAnswersTheSumModuloN : Prop :=
  decode 0x00000020 = .ok .modadd ∧
  ∀ (s : State) (ctx : InFlight), s.inFlight = some ctx →
    (ctx.regs.opn = 0 → exec .modadd s = .next { s with
      inFlight := none, done := true, err := true, errCode := 2, res0 := 0, res1 := 0 }) ∧
    (ctx.regs.opn ≠ 0 → ∃ r : Word, exec .modadd s = .next { s with
        inFlight := none, done := true, err := false, errCode := 0, res0 := r, res1 := 0 } ∧
      r.toNat = (ctx.regs.opa.toNat + ctx.regs.opb.toNat) % ctx.regs.opn.toNat)

/-- R153, R155: MODSUB: the unique residue that added to `b` gives `a`. -/
def Obligations.ModsubAnswersTheDifferenceModuloN : Prop :=
  decode 0x00000021 = .ok .modsub ∧
  ∀ (s : State) (ctx : InFlight), s.inFlight = some ctx →
    (ctx.regs.opn = 0 → exec .modsub s = .next { s with
      inFlight := none, done := true, err := true, errCode := 2, res0 := 0, res1 := 0 }) ∧
    (ctx.regs.opn ≠ 0 → ∃ r : Word, exec .modsub s = .next { s with
        inFlight := none, done := true, err := false, errCode := 0, res0 := r, res1 := 0 } ∧
      r.toNat < ctx.regs.opn.toNat ∧
      (r.toNat + ctx.regs.opb.toNat) % ctx.regs.opn.toNat = ctx.regs.opa.toNat % ctx.regs.opn.toNat ∧
      ∀ r' : Nat, r' < ctx.regs.opn.toNat →
        (r' + ctx.regs.opb.toNat) % ctx.regs.opn.toNat = ctx.regs.opa.toNat % ctx.regs.opn.toNat → r' = r.toNat)

/-- R156, R251: the fourteen words of the unsupported operator complete with code 1, whatever the modulus. -/
def Obligations.UnsupportedOperatorEndsWithCodeOne : Prop :=
  ∀ fn : BitVec 4, 2 ≤ fn.toNat →
    decode (BitVec.ofNat 32 (0x20 + fn.toNat)) = .ok (.modopInvalid fn) ∧
    ∀ (s : State) (ctx : InFlight), s.inFlight = some ctx →
      exec (.modopInvalid fn) s = .next { s with
        inFlight := none, done := true, err := true, errCode := 1, res0 := 0, res1 := 0 }

/-- R157, R159: MODMUL. -/
def Obligations.ModmulAnswersTheProductModuloN : Prop :=
  decode 0x00000030 = .ok .modmul ∧
  ∀ (s : State) (ctx : InFlight), s.inFlight = some ctx →
    (ctx.regs.opn = 0 → exec .modmul s = .next { s with
      inFlight := none, done := true, err := true, errCode := 2, res0 := 0, res1 := 0 }) ∧
    (ctx.regs.opn ≠ 0 → ∃ r : Word, exec .modmul s = .next { s with
        inFlight := none, done := true, err := false, errCode := 0, res0 := r, res1 := 0 } ∧
      r.toNat = ctx.regs.opa.toNat * ctx.regs.opb.toNat % ctx.regs.opn.toNat)

/-- R170, R171: MODPOW, with `b ^ 0 = 1` and 0 for `n = 1`. -/
def Obligations.ModpowAnswersThePowerModuloN : Prop :=
  decode 0x00000040 = .ok .modpow ∧
  ∀ (s : State) (ctx : InFlight), s.inFlight = some ctx →
    (ctx.regs.opn = 0 → exec .modpow s = .next { s with
      inFlight := none, done := true, err := true, errCode := 2, res0 := 0, res1 := 0 }) ∧
    (ctx.regs.opn ≠ 0 → ∃ r : Word, exec .modpow s = .next { s with
        inFlight := none, done := true, err := false, errCode := 0, res0 := r, res1 := 0 } ∧
      r.toNat = ctx.regs.opa.toNat ^ ctx.regs.opb.toNat % ctx.regs.opn.toNat)

/-- R180, R181: GCD: the greatest common divisor under divisibility, 0 only for 0 and 0; it cannot fail. -/
def Obligations.GcdAnswersTheGreatestCommonDivisor : Prop :=
  decode 0x00000050 = .ok .gcd ∧
  ∀ (s : State) (ctx : InFlight), s.inFlight = some ctx →
    ∃ g : Word, exec .gcd s = .next { s with
        inFlight := none, done := true, err := false, errCode := 0, res0 := g, res1 := 0 } ∧
      g.toNat ∣ ctx.regs.opa.toNat ∧ g.toNat ∣ ctx.regs.opb.toNat ∧
      ∀ k : Nat, k ∣ ctx.regs.opa.toNat → k ∣ ctx.regs.opb.toNat → k ∣ g.toNat

/-- R210, R211: MODINV: the zero modulus first, then operands that are not coprime, else the unique inverse. -/
def Obligations.ModinvAnswersTheInverse : Prop :=
  decode 0x00000070 = .ok .modinv ∧
  ∀ (s : State) (ctx : InFlight), s.inFlight = some ctx →
    (ctx.regs.opn = 0 → exec .modinv s = .next { s with
      inFlight := none, done := true, err := true, errCode := 2, res0 := 0, res1 := 0 }) ∧
    (ctx.regs.opn ≠ 0 → Nat.gcd ctx.regs.opa.toNat ctx.regs.opn.toNat ≠ 1 → exec .modinv s = .next { s with
      inFlight := none, done := true, err := true, errCode := 3, res0 := 0, res1 := 0 }) ∧
    (ctx.regs.opn ≠ 0 → Nat.gcd ctx.regs.opa.toNat ctx.regs.opn.toNat = 1 → ∃ x : Word, exec .modinv s = .next { s with
        inFlight := none, done := true, err := false, errCode := 0, res0 := x, res1 := 0 } ∧
      x.toNat < ctx.regs.opn.toNat ∧
      ctx.regs.opa.toNat * x.toNat % ctx.regs.opn.toNat = 1 % ctx.regs.opn.toNat ∧
      ∀ y : Nat, y < ctx.regs.opn.toNat →
        ctx.regs.opa.toNat * y % ctx.regs.opn.toNat = 1 % ctx.regs.opn.toNat → y = x.toNat)

/-! ### The cipher -/

/-- R240: XFORM: MODPOW's function, and MODPOW's outcome in every case. -/
def Obligations.XformAnswersAsModpow : Prop :=
  decode 0x00000090 = .ok .xform ∧
  ∀ (s : State) (ctx : InFlight), s.inFlight = some ctx →
    exec .xform s = exec .modpow s ∧
    (ctx.regs.opn = 0 → exec .xform s = .next { s with
      inFlight := none, done := true, err := true, errCode := 2, res0 := 0, res1 := 0 }) ∧
    (ctx.regs.opn ≠ 0 → ∃ r : Word, exec .xform s = .next { s with
        inFlight := none, done := true, err := false, errCode := 0, res0 := r, res1 := 0 } ∧
      r.toNat = ctx.regs.opa.toNat ^ ctx.regs.opb.toNat % ctx.regs.opn.toNat)

/-- R241, R242: ENC and DEC with the stored key: code 7 without a valid key; else they complete, with the power by the
stored exponent modulo `KEY_N`. (`KEY_N` is not 0 in a reachable state with KEYVALID, R53 (e); the value at `KEY_N` 0 is
the free value of log entry 4.) -/
def Obligations.EncAndDecUseTheStoredKey : Prop :=
  decode 0x00000091 = .ok .enc ∧ decode 0x00000092 = .ok .dec ∧
  ∀ (s : State) (ctx : InFlight), s.inFlight = some ctx →
    (ctx.regs.keyValid = false →
      exec .enc s = .next { s with
        inFlight := none, done := true, err := true, errCode := 7, res0 := 0, res1 := 0 } ∧
      exec .dec s = .next { s with
        inFlight := none, done := true, err := true, errCode := 7, res0 := 0, res1 := 0 }) ∧
    (ctx.regs.keyValid = true → ∃ c d : Word,
      exec .enc s = .next { s with
        inFlight := none, done := true, err := false, errCode := 0, res0 := c, res1 := 0 } ∧
      exec .dec s = .next { s with
        inFlight := none, done := true, err := false, errCode := 0, res0 := d, res1 := 0 } ∧
      (ctx.regs.keyN ≠ 0 → c.toNat = ctx.regs.opa.toNat ^ ctx.regs.keyE.toNat % ctx.regs.keyN.toNat ∧
        d.toNat = ctx.regs.opa.toNat ^ ctx.regs.keyD.toNat % ctx.regs.keyN.toNat))

/-- R244: the round trip. With a valid KeyPair whose `p` and `q` are prime and data below `KEY_N`, ENC then DEC of its
result returns the data, and so does DEC then ENC. -/
def Obligations.CipherRoundTripReturnsTheData : Prop :=
  ∀ (k : KeyFile) (s s' : State) (ctx ctx' : InFlight), k.Valid → k.p.toNat.Prime → k.q.toNat.Prime →
    s.inFlight = some ctx → s'.inFlight = some ctx' →
    ctx.regs.keyValid = true → ctx.regs.keyE = k.e → ctx.regs.keyD = k.d → ctx.regs.keyN = k.n →
    ctx'.regs.keyValid = true → ctx'.regs.keyE = k.e → ctx'.regs.keyD = k.d → ctx'.regs.keyN = k.n →
    ctx.regs.opa.toNat < k.n.toNat →
    (∃ t, exec .enc s = .next t ∧
      (ctx'.regs.opa = t.res0 → ∃ t', exec .dec s' = .next t' ∧ t'.err = false ∧ t'.res0 = ctx.regs.opa)) ∧
    (∃ t, exec .dec s = .next t ∧
      (ctx'.regs.opa = t.res0 → ∃ t', exec .enc s' = .next t' ∧ t'.err = false ∧ t'.res0 = ctx.regs.opa))

/-! ### The primality tester -/

/-- R190, R191: ISPRIME by its drawn witnesses. Candidates 0, 1 and even ones are answered without a draw. For an odd
candidate from 3 up the witness of a draw `u` is `2 + u * (c - 2) div 2^32`: true when the first `rounds` draws are there
and all give strong witnesses; false when one of those drawn does not; else one more draw is asked for (R93; without a
reply the turn leaves the state as it is, R288 and log entry 6). More draws than the test asks for rest on log entry 7. -/
def Obligations.IsprimeAnswersByItsDrawnWitnesses : Prop :=
  decode 0x00000060 = .ok .isprime ∧
  ∀ (s : State) (ctx : InFlight) (c numRounds : Nat), s.inFlight = some ctx →
    c = ctx.regs.opa.toNat → numRounds = ctx.regs.opb.toNat →
    (c % 2 = 0 ∨ c = 1 → exec .isprime s = .next { s with
      inFlight := none, done := true, err := false, errCode := 0, res0 := if c = 2 then 1 else 0, res1 := 0 }) ∧
    (c % 2 = 1 → 3 ≤ c →
      (numRounds ≤ ctx.draws.length →
        (∀ u ∈ ctx.draws.take numRounds, StrongWitness c (2 + u.toNat * (c - 2) / 2 ^ 32)) →
        exec .isprime s = .next { s with
          inFlight := none, done := true, err := false, errCode := 0, res0 := 1, res1 := 0 }) ∧
      ((∃ u ∈ ctx.draws.take numRounds, ¬ StrongWitness c (2 + u.toNat * (c - 2) / 2 ^ 32)) →
        exec .isprime s = .next { s with
          inFlight := none, done := true, err := false, errCode := 0, res0 := 0, res1 := 0 }) ∧
      (ctx.draws.length < numRounds →
        (∀ u ∈ ctx.draws, StrongWitness c (2 + u.toNat * (c - 2) / 2 ^ 32)) →
        (s.rngIn = none → exec .isprime s = .next s) ∧
        (∀ u, s.rngIn = some u → ∃ t, exec .isprime s = .next t ∧ t.block = { s.block with
          inFlight := some ⟨ctx.word, ctx.regs, ctx.draws ++ [u]⟩ })))

/-- R198: no false negatives: for a prime candidate, with at least as many draws as rounds, ISPRIME completes with 1,
whatever the draws are. (More draws than rounds, which no run has, rest on log entry 7.) -/
def Obligations.IsprimeHasNoFalseNegatives : Prop :=
  ∀ (s : State) (ctx : InFlight), s.inFlight = some ctx → ctx.regs.opa.toNat.Prime →
    ctx.regs.opb.toNat ≤ ctx.draws.length →
    exec .isprime s = .next { s with
      inFlight := none, done := true, err := false, errCode := 0, res0 := 1, res1 := 0 }

/-- R195 with R190: how many draws a finished test consumed, and why it ended: none for candidates 0, 1 and even ones;
else all `R` rounds, each with a strong witness, when the answer is true, and the index (from 1) of the first failing
round when it is false. A test that asks for more has had a strong witness in every round so far, fewer than `R`; no
test raises an error (R191). Surplus draws, left in `rest`, rest on log entry 7. -/
def Obligations.IsprimeConsumesOneDrawPerRound : Prop :=
  (∀ (c r : Word) (draws rest : List Word) (b : Bool), isprime c.toNat r.toNat draws = .done b rest →
    ∃ k ≤ draws.length, rest = draws.drop k ∧
      (c.toNat % 2 = 0 ∨ c.toNat = 1 → k = 0 ∧ (b = true ↔ c = 2)) ∧
      (c.toNat % 2 = 1 → 3 ≤ c.toNat →
        (b = true → k = r.toNat ∧ ∀ u ∈ draws.take k, StrongWitness c.toNat (witness u c.toNat)) ∧
        (b = false → 1 ≤ k ∧ k ≤ r.toNat ∧
          (∀ u ∈ draws.take (k - 1), StrongWitness c.toNat (witness u c.toNat)) ∧
          ∀ u ∈ draws[k - 1]?, ¬ StrongWitness c.toNat (witness u c.toNat)))) ∧
  ∀ (c r : Word) (draws : List Word),
    (isprime c.toNat r.toNat draws = .more → c.toNat % 2 = 1 ∧ 3 ≤ c.toNat ∧ draws.length < r.toNat ∧
      ∀ u ∈ draws, StrongWitness c.toNat (witness u c.toNat)) ∧
    ∀ e, isprime c.toNat r.toNat draws ≠ .raise e

/-- R194: the witness of a draw is in `[2, c - 1]` for every candidate from 3 up; draw 0 gives 2 and draw MAX gives
`c - 1`. -/
def Obligations.WitnessLiesInItsRange : Prop :=
  ∀ (c u : Word), 3 ≤ c.toNat →
    witness u c.toNat = 2 + u.toNat * (c.toNat - 2) / 2 ^ 32 ∧ 2 ≤ witness u c.toNat ∧
    witness u c.toNat ≤ c.toNat - 1 ∧ witness 0 c.toNat = 2 ∧
    witness 0xFFFFFFFF c.toNat = c.toNat - 1

/-- R13: `scale(u, lo, hi)` lies in `[lo, hi - 1]` for `hi > lo` and is `lo` otherwise. -/
def Obligations.ScaledDrawLiesInTheRange : Prop :=
  ∀ u lo hi : Word,
    (lo.toNat < hi.toNat → lo.toNat ≤ scale u.toNat lo.toNat hi.toNat ∧
      scale u.toNat lo.toNat hi.toNat ≤ hi.toNat - 1 ∧
      scale u.toNat lo.toNat hi.toNat = lo.toNat + u.toNat * (hi.toNat - lo.toNat) / 2 ^ 32) ∧
    (hi.toNat ≤ lo.toNat → scale u.toNat lo.toNat hi.toNat = lo.toNat)

/-! ### The key generator -/

/-- R220, R221, R229, R230: when KEYGEN succeeds, when it fails, and what it writes. `keygen()` ends with a key exactly
when its three loops take `p`, `q` and `e` from these draws (`KeygenSucceeds`: R220, R222, R223, R225) and with an error
exactly when one of the loops runs out of attempts (`KeygenExhausts`: R228). KEYGEN completes as `keygen()` does: on
success the five key registers and KEYVALID are written together; on failure (code 5 or 4) all five are 0 and KEYVALID is
0, whatever key was there before; else one more draw is asked for (R93; without a reply the turn leaves the state as it is,
R288 and log entry 6). More draws than KEYGEN asks for rest on log entry 7. -/
def Obligations.KeygenWritesOrDestroysTheKey : Prop :=
  decode 0x00000080 = .ok .keygen ∧
  (∀ (kg : KgConfig) (draws : List Word),
    (∀ k rest, keygen kg draws = .done k rest ↔ KeygenSucceeds kg draws k rest) ∧
    (∀ e, keygen kg draws = .raise e ↔ e = .attemptsExceeded ∧ KeygenExhausts kg draws)) ∧
  ∀ (s : State) (ctx : InFlight), s.inFlight = some ctx →
    (∀ k rest, keygen ctx.regs.kg ctx.draws = .done k rest → exec .keygen s = .next { s with
      inFlight := none, done := true, err := false, errCode := 0, res0 := 0, res1 := 0, keys := k
      keyValid := true }) ∧
    (∀ e, keygen ctx.regs.kg ctx.draws = .raise e → (e.code = 5 ∨ e.code = 4) ∧ exec .keygen s = .next { s with
      inFlight := none, done := true, err := true, errCode := e.code, res0 := 0, res1 := 0
      keys := ⟨0, 0, 0, 0, 0⟩, keyValid := false }) ∧
    (keygen ctx.regs.kg ctx.draws = .more →
      (s.rngIn = none → exec .keygen s = .next s) ∧
      (∀ u, s.rngIn = some u → ∃ t, exec .keygen s = .next t ∧ t.block = { s.block with
        inFlight := some ⟨ctx.word, ctx.regs, ctx.draws ++ [u]⟩ }))

/-- R231 (a) to (f): what a KEYGEN that completed with a valid key guarantees, for the draws it consumed and its
configuration. -/
def Obligations.KeygenKeyPairInvariants : Prop :=
  ∀ (s t : State) (ctx : InFlight), s.inFlight = some ctx → exec .keygen s = .next t → t.inFlight = none →
    t.keyValid = true →
    (∃ tested rest, isprime t.keys.p.toNat 100 tested = .done true rest ∧ tested <:+ ctx.draws) ∧
    (∃ tested rest, isprime t.keys.q.toNat 100 tested = .done true rest ∧ tested <:+ ctx.draws) ∧
    t.keys.p ≠ t.keys.q ∧
    (ctx.regs.kg.min < t.keys.p ∧ ctx.regs.kg.min < t.keys.q ∧
      (ctx.regs.kg.lo < ctx.regs.kg.hi → ctx.regs.kg.lo ≤ t.keys.p ∧ t.keys.p < ctx.regs.kg.hi ∧
        ctx.regs.kg.lo ≤ t.keys.q ∧ t.keys.q < ctx.regs.kg.hi)) ∧
    t.keys.n.toNat = t.keys.p.toNat * t.keys.q.toNat ∧
    (2 ≤ t.keys.e.toNat ∧ t.keys.e.toNat < (t.keys.p.toNat - 1) * (t.keys.q.toNat - 1) ∧
      Nat.gcd t.keys.e.toNat ((t.keys.p.toNat - 1) * (t.keys.q.toNat - 1)) = 1) ∧
    (1 ≤ t.keys.d.toNat ∧ t.keys.d.toNat < (t.keys.p.toNat - 1) * (t.keys.q.toNat - 1) ∧
      t.keys.e.toNat * t.keys.d.toNat % ((t.keys.p.toNat - 1) * (t.keys.q.toNat - 1)) = 1)

/-- R232: KEYGEN finishes within `KG_ATTEMPTS * 101 + KG_ATTEMPTS * 101 + KG_ATTEMPTS` draws, whatever they are. -/
def Obligations.KeygenDrawsAreBounded : Prop :=
  ∀ (kg : KgConfig) (draws : List Word),
    kg.attempts.toNat * 101 + kg.attempts.toNat * 101 + kg.attempts.toNat ≤ draws.length →
    keygen kg draws ≠ .more

/-- R233: configurations that admit no key: no attempts; an empty range; a lower bound at the top of the range. -/
def Obligations.KeygenCornerConfigurationsFail : Prop :=
  ∀ (kg : KgConfig) (draws : List Word),
    (kg.attempts = 0 → keygen kg draws = .raise .attemptsExceeded) ∧
    (kg.hi ≤ kg.lo → keygen kg draws = .more ∨ keygen kg draws = .raise .attemptsExceeded) ∧
    (kg.lo < kg.hi → kg.hi.toNat - 1 ≤ kg.min.toNat →
      (draws.length < kg.attempts.toNat → keygen kg draws = .more) ∧
      (kg.attempts.toNat ≤ draws.length → keygen kg draws = .raise .attemptsExceeded))

/-- R254: no execution produces code 4, since the inverse is computed exactly: no step from any state writes it, so no
reachable state holds it. -/
def Obligations.CodeFourIsNeverReported : Prop :=
  (∀ s t : State, s.errCode ≠ 4 → step s = .next t → t.errCode ≠ 4) ∧ ∀ s : State, Reachable s → s.errCode ≠ 4

/-! ### Errors -/

/-- R260: which command can end with which code, KEYGEN's code 4 being unreachable. -/
def Obligations.CommandsEndWithTheirOwnCodes : Prop :=
  ∀ (c : Word) (r : Snapshot) (draws : List Word) (o : CmdOutcome),
    commandResult c r draws = .fin o → errorCode o.err ∈ allowedCodes (decode c)

/-- R262: error completion, for every command: the flags, the code, the zeroed results; for KEYGEN only, the key
registers and KEYVALID cleared; nothing else changes. -/
def Obligations.ErrorCompletionHasNoPartialEffect : Prop :=
  ∀ (s : State) (ctx : InFlight) (o : CmdOutcome) (e : CmdError) (reply : Option Word) (rest : List Input),
    s.inFlight = some ctx → commandResult ctx.word ctx.regs ctx.draws = .fin o → o.err = some e →
    s.inputs = .engine reply :: rest →
    (decode ctx.word = .ok .keygen → ∃ t, step s = .next t ∧ t.block = { s.block with
      inFlight := none, done := true, err := true
      errCode := e.code, res0 := 0, res1 := 0, keys := ⟨0, 0, 0, 0, 0⟩, keyValid := false }) ∧
    (decode ctx.word ≠ .ok .keygen → ∃ t, step s = .next t ∧ t.block = { s.block with
      inFlight := none, done := true, err := true
      errCode := e.code, res0 := 0, res1 := 0 })

/-- R264: acknowledgement: a write of 1 to STATUS bits 1 and 2 clears DONE and ERR, lowers irq and leaves ERRCODE and
IE; or the next acceptance clears DONE, ERR and ERRCODE, acknowledged or not. -/
def Obligations.AcknowledgementClearsTheFlags : Prop :=
  ∀ (s : State) (c : Word) (rest : List Input),
    (s.inputs = .host (.write 1 0x00000006) :: rest →
      ∃ t, step s = .next t ∧ t.done = false ∧ t.err = false ∧ t.irq = false ∧ t.errCode = s.errCode ∧ t.ie = s.ie ∧
        t.ovr = s.ovr ∧ t.inFlight = s.inFlight) ∧
    (s.inFlight = none → s.inputs = .host (.write 2 c) :: rest →
      ∃ t, step s = .next t ∧ t.inFlight.isSome = true ∧ t.done = false ∧ t.err = false ∧ t.errCode = 0 ∧ t.ie = s.ie)

/-! ### What commands read and write -/

/-- R33: a register not listed for a command has no influence on its outcome, and draws have none but on ISPRIME and
KEYGEN; and in every reachable state the values read at acceptance are those of the registers. -/
def Obligations.CommandsReadOnlyTheirOperands : Prop :=
  (∀ (r r' : Snapshot) (draws draws' : List Word) (fn : BitVec 4),
    (r.opa = r'.opa → r.opn = r'.opn → instrResult .div r draws = instrResult .div r' draws' ∧
      instrResult .modinv r draws = instrResult .modinv r' draws') ∧
    (r.opa = r'.opa → r.opb = r'.opb → r.opn = r'.opn →
      instrResult .modadd r draws = instrResult .modadd r' draws' ∧
      instrResult .modsub r draws = instrResult .modsub r' draws' ∧
      instrResult .modmul r draws = instrResult .modmul r' draws' ∧
      instrResult .modpow r draws = instrResult .modpow r' draws' ∧
      instrResult .xform r draws = instrResult .xform r' draws') ∧
    instrResult (.modopInvalid fn) r draws = instrResult (.modopInvalid fn) r' draws' ∧
    (r.opa = r'.opa → r.opb = r'.opb → instrResult .gcd r draws = instrResult .gcd r' draws' ∧
      instrResult .isprime r draws = instrResult .isprime r' draws) ∧
    (r.kg = r'.kg → instrResult .keygen r draws = instrResult .keygen r' draws) ∧
    (r.opa = r'.opa → r.keyE = r'.keyE → r.keyN = r'.keyN → r.keyValid = r'.keyValid →
      instrResult .enc r draws = instrResult .enc r' draws') ∧
    (r.opa = r'.opa → r.keyD = r'.keyD → r.keyN = r'.keyN → r.keyValid = r'.keyValid →
      instrResult .dec r draws = instrResult .dec r' draws')) ∧
  (∀ (s : State) (ctx : InFlight), Reachable s → s.inFlight = some ctx →
    ctx.regs.opa = s.opa ∧ ctx.regs.opb = s.opb ∧ ctx.regs.opn = s.opn ∧ ctx.regs.keyE = s.keys.e ∧
    ctx.regs.keyD = s.keys.d ∧ ctx.regs.keyN = s.keys.n ∧ ctx.regs.keyValid = s.keyValid ∧ ctx.regs.kg = s.kg)

/-- The frame of the two agents (R32, R36, R43, R94): an engine turn of any command leaves CTRL, CMD, OVR, the operand
and configuration registers, and of any command but KEYGEN the key registers and KEYVALID too; a host transaction
leaves the result and key registers and KEYVALID. -/
def Obligations.EngineAndHostKeepTheirFrames : Prop :=
  (∀ (i : Instr) (s t : State), exec i s = .next t →
    t.ie = s.ie ∧ t.cmd = s.cmd ∧ t.ovr = s.ovr ∧ t.opa = s.opa ∧ t.opb = s.opb ∧ t.opn = s.opn ∧ t.kg = s.kg ∧
    (i ≠ .keygen → t.keys = s.keys ∧ t.keyValid = s.keyValid) ∧
    (t.inFlight ≠ none → t.memRead 7 = s.memRead 7 ∧ t.memRead 8 = s.memRead 8 ∧ t.keys = s.keys ∧
      t.memRead 1 = s.memRead 1 ∧ t.memRead 3 = s.memRead 3)) ∧
  (∀ (h : HostTxn) (s : State) (j : Slot), 7 ≤ j.toNat → j.toNat ≤ 13 →
    (s.hostTxn h).memRead j = s.memRead j ∧ (s.hostTxn h).keyValid = s.keyValid)

/-- The whole-machine rule of R43: the key registers and KEYVALID change only at the completion of a KEYGEN or at reset,
whatever step is taken. -/
def Obligations.KeysChangeOnlyByKeygenOrReset : Prop :=
  ∀ s t : State, step s = .next t → t.keys ≠ s.keys ∨ t.keyValid ≠ s.keyValid →
    (∃ h reply rest, s.inputs = .reset h reply :: rest) ∨
    (∃ ctx, s.inFlight = some ctx ∧ decode ctx.word = .ok .keygen ∧ s.rngReq = false)

/-- R47: on every infinite stream of draws there is one point where a command finishes: the execution function asks for
more on every shorter prefix and has finished there, with one outcome. (That it keeps this outcome on longer prefixes,
outside R47's domain, is log entry 7.) -/
def Obligations.EveryCommandFinishesOnEveryStream : Prop :=
  ∀ (c : Word) (r : Snapshot) (stream : Nat → Word), ∃ (n : Nat) (o : CmdOutcome),
    (∀ k < n, commandResult c r (drawPrefix stream k) = .more) ∧
    ∀ k, n ≤ k → commandResult c r (drawPrefix stream k) = .fin o

/-- R99: under (a) and (b) every accepted command reaches its completion step: on every endless run without reset from a
state with a command in flight, some step is the completion step of that very command. -/
def Obligations.AcceptedCommandsReachTheirCompletion : Prop :=
  ∀ (env : Nat → Input) (trace : Nat → State) (ctx : InFlight), EndlessRun env trace → EngineFair env trace →
    CollaboratorLive env trace → (trace 0).inFlight = some ctx →
    ∃ (m : Nat) (draws : List Word) (o : CmdOutcome), (trace m).inFlight = some ⟨ctx.word, ctx.regs, draws⟩ ∧
      commandResult ctx.word ctx.regs draws = .fin o ∧ (env m).engineReply ≠ none

/-- R123: a pseudo-instruction run from an idle block leaves the block idle with DONE, and its results in RES0, RES1 and
ERRCODE. First clause: the host writes and one engine turn with quiet ports (no input is listed, log entry 1), for every
command that requests no draw; DIV's quotient and remainder. Second clause: every pseudo-instruction on every stream of
draws: after the host writes, `n` engine turns each with the next draw and one more turn, where `n` is the number of draws
the command asks for (0 where it asks for none), the whole block is the one with the operands and CMD written and the
outcome `o` of the command on its operands and those draws completed. -/
def Obligations.PseudoInstructionLeavesTheBlockIdle : Prop :=
  (∀ (s : State) (x : Pseudo), s.inFlight = none → (∀ c r, x ≠ .isprime c r) → x ≠ .keygen →
    ∃ t, step { s.hostRun x.transactions with inputs := [] } = .next t ∧ t.waitDone = true ∧ t.done = true ∧
      t.ovr = s.ovr ∧ (∀ a n, x = .div a n → n ≠ 0 → t.res0 = a / n ∧ t.res1 = a % n ∧ t.err = false)) ∧
  ∀ (s : State) (x : Pseudo) (stream : Nat → Word), s.inFlight = none → ∃ (n : Nat) (o : CmdOutcome) (t : State),
    (∀ k < n, instrResult x.instr (x.operands s).snapshot (drawPrefix stream k) = .more) ∧
    instrResult x.instr (x.operands s).snapshot (drawPrefix stream n) = .fin o ∧
    State.run (n + 1) { s.hostRun x.transactions with
      inputs := (drawPrefix stream n).map (fun u => Input.engine (some u)) ++ [.engine none] } = .next t ∧
    t.waitDone = true ∧
    t.block = { (x.operands s).block with
      cmd := encode x.instr, done := true, err := o.err.isSome, errCode := errorCode o.err, res0 := o.res0
      res1 := o.res1, keys := o.key.getD s.keys, keyValid := if o.key.isSome then o.err.isNone else s.keyValid }

/-! ### The reference methods -/

/-- R142: successive subtraction returns the pair of R140. -/
def Obligations.SuccessiveSubtractionDivides : Prop :=
  ∀ a n : Word, n ≠ 0 →
    (Reference.divide a n).1.toNat = a.toNat / n.toNat ∧ (Reference.divide a n).2.toNat = a.toNat % n.toNat

/-- R151, R154, R158: the adder, the subtractor and the multiplier in wrapping 32-bit arithmetic return the values of
R150, R153 and R157. -/
def Obligations.NarrowAdderSubtractorMultiplierAreExact : Prop :=
  ∀ a b n : Word, n ≠ 0 →
    (Reference.addmod a b n).toNat = (a.toNat + b.toNat) % n.toNat ∧
    (Reference.submod a b n).toNat = (a.toNat % n.toNat + n.toNat - b.toNat % n.toNat) % n.toNat ∧
    (Reference.mulmod a b n).toNat = a.toNat * b.toNat % n.toNat

/-- R172: square-and-multiply over the narrow multiplier returns the value of R170. -/
def Obligations.NarrowSquareAndMultiplyIsExact : Prop :=
  ∀ b e n : Word, n ≠ 0 → (Reference.powmod b e n).toNat = b.toNat ^ e.toNat % n.toNat

/-- R182: the Euclidean algorithm returns the greatest common divisor, with its three boundary values. -/
def Obligations.EuclideanAlgorithmIsExact : Prop :=
  ∀ a b : Word, (Reference.gcd a b).toNat = Nat.gcd a.toNat b.toNat ∧ Reference.gcd a 0 = a ∧
    Reference.gcd 0 b = b ∧ Reference.gcd 0 0 = 0

/-- R212, R213: the extended iteration in Words returns the greatest common divisor and a coefficient `x` below the
modulus with `a * x` congruent to it. -/
def Obligations.ExtendedEuclideanIterationIsExact : Prop :=
  ∀ a m : Word, m ≠ 0 →
    (Reference.xgcd a m).1.toNat = Nat.gcd a.toNat m.toNat ∧ (Reference.xgcd a m).2.toNat < m.toNat ∧
    a.toNat * (Reference.xgcd a m).2.toNat % m.toNat = Nat.gcd a.toNat m.toNat % m.toNat
end

