-- ==== Sys2Proof/Laws/Arith.lean ====
section
/-! SUPPORT. What the pure functions return: the result rules of 41_modular_arithmetic.md, 42_modpow.md, 45_modinv.md and R13. -/

namespace Sys2Proof.Machine

theorem addmod_lt (a b n : Nat) (h : 0 < n) : addmod a b n < n := Nat.mod_lt _ h

theorem mulmod_lt (x y n : Nat) (h : 0 < n) : mulmod x y n < n := Nat.mod_lt _ h

theorem submod_lt (a b n : Nat) (h : 0 < n) : submod a b n < n := Nat.mod_lt _ h

/-- R153: the difference added to the subtrahend is congruent to the minuend. -/
theorem submod_add_modEq (a b n : Nat) (h : 0 < n) : submod a b n + b ≡ a [MOD n] := by
  have hb : b % n ≤ a % n + n := by have := Nat.mod_lt b h; omega
  calc submod a b n + b ≡ (a % n + n - b % n) + b % n [MOD n] :=
        Nat.ModEq.add (Nat.mod_modEq _ _) (Nat.mod_modEq b n).symm
    _ = a % n + n := Nat.sub_add_cancel hb
    _ ≡ a [MOD n] := by simp [Nat.ModEq]

/-- The square-and-multiply invariant of R172. -/
theorem powmodBits_modEq (n : Nat) : ∀ (k sq e acc : Nat), e < 2 ^ k →
    powmodBits n k sq e acc ≡ acc * sq ^ e [MOD n] := by
  intro k
  induction k with
  | zero => intro sq e acc h; simp [powmodBits, show e = 0 by omega, Nat.ModEq.refl]
  | succ k ih =>
    intro sq e acc h
    have hk : e / 2 < 2 ^ k := by rw [pow_succ] at h; omega
    have hsq : mulmod sq sq n ^ (e / 2) ≡ (sq * sq) ^ (e / 2) [MOD n] := (Nat.mod_modEq _ _).pow _
    have hpow : sq ^ e = (sq * sq) ^ (e / 2) * sq ^ (e % 2) := by
      rw [← pow_two, ← pow_mul, ← pow_add, Nat.div_add_mod]
    refine (ih _ _ _ hk).trans ?_
    rcases Nat.mod_two_eq_zero_or_one e with h0 | h1
    · simpa [h0, hpow] using hsq.mul_left acc
    · have : mulmod acc sq n ≡ acc * sq [MOD n] := Nat.mod_modEq _ _
      simpa [h1, hpow, mul_comm, mul_left_comm, mul_assoc] using this.mul hsq

theorem powmodBits_lt (n : Nat) (hn : 0 < n) : ∀ (k sq e acc : Nat), acc < n → powmodBits n k sq e acc < n := by
  intro k
  induction k with
  | zero => intro sq e acc h; exact h
  | succ k ih =>
    intro sq e acc h
    refine ih _ _ _ ?_
    split
    · exact mulmod_lt _ _ _ hn
    · exact h

theorem powmod_lt (b e n : Nat) (hn : 0 < n) : powmod b e n < n :=
  powmodBits_lt n hn _ _ _ _ (Nat.mod_lt _ hn)

/-- R170: for an exponent that is a Word and `n > 0`, `powmod` is `(b ^ e) mod n`, with `b ^ 0 = 1`. -/
theorem powmod_eq (b e n : Nat) (he : e < 2 ^ 32) (hn : 0 < n) : powmod b e n = b ^ e % n := by
  have h : powmod b e n ≡ b ^ e [MOD n] := by
    refine (powmodBits_modEq n 32 _ _ _ he).trans ?_
    simpa using ((Nat.mod_modEq 1 n).mul ((Nat.mod_modEq b n).pow e))
  rw [← Nat.mod_eq_of_lt (powmod_lt b e n hn)]
  exact h

/-- The loop invariant of the extended iteration (45_modinv.md R213), with enough passes. -/
theorem xgcdLoop_spec (m a : Nat) (hm : 0 < m) : ∀ (k r0 r1 x0 x1 : Nat), r1 ≤ k →
    r0 ≡ a * x0 [MOD m] → r1 ≡ a * x1 [MOD m] →
    (xgcdLoop m k r0 r1 x0 x1).1 = Nat.gcd r0 r1 ∧
    (xgcdLoop m k r0 r1 x0 x1).1 ≡ a * (xgcdLoop m k r0 r1 x0 x1).2 [MOD m] ∧
    (xgcdLoop m k r0 r1 x0 x1).2 < m := by
  have stop : ∀ r0 x0 : Nat, r0 ≡ a * x0 [MOD m] →
      r0 = Nat.gcd r0 0 ∧ r0 ≡ a * (x0 % m) [MOD m] ∧ x0 % m < m := fun r0 x0 h0 =>
    ⟨by simp, h0.trans ((Nat.mod_modEq x0 m).symm.mul_left a), Nat.mod_lt _ hm⟩
  intro k
  induction k with
  | zero =>
    intro r0 r1 x0 x1 hk h0 _
    obtain rfl : r1 = 0 := by omega
    exact stop r0 x0 h0
  | succ k ih =>
    intro r0 r1 x0 x1 hk h0 h1
    by_cases hz : r1 = 0
    · subst hz; simpa [xgcdLoop] using stop r0 x0 h0
    · have hlt : r0 % r1 ≤ k := by have := Nat.mod_lt r0 (Nat.pos_of_ne_zero hz); omega
      set t := submod x0 (mulmod (r0 / r1) x1 m) m with ht
      have hcoef : r0 % r1 ≡ a * t [MOD m] := by
        have hsum : t + r0 / r1 * x1 ≡ x0 [MOD m] :=
          ((Nat.mod_modEq (r0 / r1 * x1) m).symm.add_left t).trans (submod_add_modEq _ _ m hm)
        have hl : r0 % r1 + r0 / r1 * r1 ≡ a * t + r0 / r1 * r1 [MOD m] := by
          calc r0 % r1 + r0 / r1 * r1 = r0 := Nat.mod_add_div' r0 r1
            _ ≡ a * x0 [MOD m] := h0
            _ ≡ a * (t + r0 / r1 * x1) [MOD m] := (hsum.symm).mul_left a
            _ = a * t + r0 / r1 * (a * x1) := by ring
            _ ≡ a * t + r0 / r1 * r1 [MOD m] := (h1.symm.mul_left _).add_left _
        exact Nat.ModEq.add_right_cancel' _ hl
      have hstep := ih r1 (r0 % r1) x1 t hlt h1 hcoef
      have hg : Nat.gcd r1 (r0 % r1) = Nat.gcd r0 r1 := by
        rw [Nat.gcd_comm r1, ← Nat.gcd_rec, Nat.gcd_comm]
      simpa [xgcdLoop, hz, ← ht, hg] using hstep

/-- R212, R213: `xgcd` returns the greatest common divisor and a coefficient below the modulus. -/
theorem xgcd_spec (a m : Nat) (hm : 0 < m) :
    (xgcd a m).1 = Nat.gcd a m ∧ Nat.gcd a m ≡ a * (xgcd a m).2 [MOD m] ∧ (xgcd a m).2 < m := by
  have h := xgcdLoop_spec m a hm m a m 1 0 le_rfl (by simp [Nat.ModEq]) (by simp [Nat.ModEq])
  have h1 : (xgcd a m).1 = Nat.gcd a m := h.1
  exact ⟨h1, h1 ▸ h.2.1, h.2.2⟩

theorem inverse_lt (a m : Nat) (hm : 0 < m) : inverse a m < m := (xgcd_spec a m hm).2.2

/-- R210: for coprime operands the result is an inverse, `(a * x) mod m = 1 mod m`. -/
theorem mul_inverse_mod (a m : Nat) (hm : 0 < m) (h : Nat.gcd a m = 1) : a * inverse a m % m = 1 % m := by
  have hx := (xgcd_spec a m hm).2.1
  rw [h] at hx
  exact hx.symm

/-- R13: for `hi <= lo` the range is empty and the result is `lo`. -/
theorem scale_of_le (u lo hi : Nat) (h : hi ≤ lo) : scale u lo hi = lo := by
  simp [scale, Nat.sub_eq_zero_of_le h]

theorem le_scale (u lo hi : Nat) : lo ≤ scale u lo hi := Nat.le_add_right _ _

/-- R13: for `hi > lo` and a draw that is a Word the result is below `hi`. -/
theorem scale_lt (u lo hi : Nat) (hu : u < 2 ^ 32) (h : lo < hi) : scale u lo hi < hi := by
  have hd : u * (hi - lo) / Config.wordCount < hi - lo := by
    refine Nat.div_lt_of_lt_mul ?_
    have : Config.wordCount = 2 ^ 32 := rfl
    rw [this]
    exact Nat.mul_lt_mul_of_pos_right hu (by omega)
  unfold scale
  omega

theorem toNat_toWord (v : Nat) (h : v < 2 ^ 32) : (toWord v).toNat = v := by
  simpa [toWord] using Nat.mod_eq_of_lt h

end Sys2Proof.Machine
end

