-- ==== Sys2Proof/Laws/Draws.lean ====
section
/-! SUPPORT. What the draw-consuming pieces of ISPRIME and KEYGEN can do (44_primality.md R190 to R197; 46_keygen.md R220). -/

namespace Sys2Proof.Machine

/-! ### Rounds -/

/-- Everything the rounds can do (R195): pass with one draw each, fail at the first failing round, or ask for more. -/
theorem rounds_cases (c d s : Nat) : ∀ (k : Nat) (draws : List Word),
    (rounds c d s k draws = .more ∧ draws.length < k ∧ ∀ u ∈ draws, witnessPasses c d s (witness u c) = true) ∨
    (rounds c d s k draws = .done true (draws.drop k) ∧ k ≤ draws.length ∧
      ∀ u ∈ draws.take k, witnessPasses c d s (witness u c) = true) ∨
    (∃ pre u rest, draws = pre ++ u :: rest ∧ pre.length < k ∧ rounds c d s k draws = .done false rest ∧
      (∀ v ∈ pre, witnessPasses c d s (witness v c) = true) ∧ witnessPasses c d s (witness u c) = false) := by
  intro k
  induction k with
  | zero => intro draws; exact .inr (.inl (by simp [rounds]))
  | succ k ih =>
    intro draws
    cases draws with
    | nil => exact .inl (by simp [rounds])
    | cons u rest =>
      cases hw : witnessPasses c d s (witness u c) with
      | false => exact .inr (.inr ⟨[], u, rest, by simp, by simp, by simp [rounds, hw], by simp, hw⟩)
      | true =>
        rcases ih rest with ⟨h, hl, hp⟩ | ⟨h, hl, hp⟩ | ⟨pre, v, r, he, hl, h, hp, hv⟩
        · exact .inl (by simp [rounds, hw, h, hl]; exact hp)
        · exact .inr (.inl (by simp [rounds, hw, h, hl]; exact hp))
        · refine .inr (.inr ⟨u :: pre, v, r, by simp [he], by simp [hl], by simp [rounds, hw, h], ?_, hv⟩)
          simpa [hw] using hp

/-- The answer for a candidate that needs no round: 0, 1 and even numbers (R190 lines 1 to 3). -/
theorem isprime_trivial (c k : Nat) (draws : List Word) (h : c % 2 = 0 ∨ c = 1) :
    isprime c k draws = .done (decide (c = 2)) draws := by
  unfold isprime
  rcases h with h | rfl
  · by_cases h0 : c = 0
    · subst h0; rfl
    · simp [h0, h]
  · rfl

/-- The answer for an odd candidate from 3 up is that of its rounds. -/
theorem isprime_odd (c k : Nat) (draws : List Word) (h : c % 2 = 1) (h1 : c ≠ 1) :
    isprime c k draws =
      rounds c (factorTwos Config.width (c - 1) 0).1 (factorTwos Config.width (c - 1) 0).2 k draws := by
  have h0 : c ≠ 0 := by rintro rfl; simp at h
  simp [isprime, h0, h1, h]

/-- ISPRIME raises no error (R191). -/
theorem isprime_ne_raise (c k : Nat) (draws : List Word) (e : CmdError) : isprime c k draws ≠ .raise e := by
  by_cases h : c % 2 = 0 ∨ c = 1
  · simp [isprime_trivial c k draws h]
  · push Not at h
    rw [isprime_odd c k draws (by omega) h.2]
    rcases rounds_cases c _ _ k draws with ⟨h, -⟩ | ⟨h, -⟩ | ⟨_, _, _, _, _, h, _⟩ <;> rw [h] <;> simp

/-- The draws a test leaves are the end of those it was given (R195). -/
theorem isprime_rest_suffix (c k : Nat) (draws : List Word) (b : Bool) (rest : List Word)
    (h : isprime c k draws = .done b rest) : rest <:+ draws := by
  by_cases hc : c % 2 = 0 ∨ c = 1
  · rw [isprime_trivial c k draws hc] at h
    cases h; exact List.suffix_refl _
  · push Not at hc
    rw [isprime_odd c k draws (by omega) hc.2] at h
    rcases rounds_cases c _ _ k draws with ⟨h', -⟩ | ⟨h', -⟩ | ⟨pre, u, r, he, _, h', _⟩ <;> rw [h'] at h
    · cases h
    · cases h; exact List.drop_suffix _ _
    · cases h; exact ⟨pre ++ [u], by simp [he]⟩

/-- A number the tester answers true of is 2 or odd and at least 3 (R224). -/
theorem isprime_true_ge (c k : Nat) (draws rest : List Word) (h : isprime c k draws = .done true rest) :
    c = 2 ∨ (c % 2 = 1 ∧ 3 ≤ c) := by
  by_cases hc : c % 2 = 0 ∨ c = 1
  · rw [isprime_trivial c k draws hc] at h
    injection h with h1
    exact .inl (of_decide_eq_true h1)
  · push Not at hc
    omega

/-- The number of rounds bounds the draws a test can ask for (R197). -/
theorem isprime_more_length (c k : Nat) (draws : List Word) (h : isprime c k draws = .more) : draws.length < k := by
  by_cases hc : c % 2 = 0 ∨ c = 1
  · rw [isprime_trivial c k draws hc] at h; cases h
  · push Not at hc
    rw [isprime_odd c k draws (by omega) hc.2] at h
    rcases rounds_cases c _ _ k draws with ⟨h', hl, -⟩ | ⟨h', -⟩ | ⟨pre, u, r, he, _, h', _⟩
    · exact hl
    · rw [h'] at h; cases h
    · rw [h'] at h; cases h

/-- Halving keeps the product `d * 2^s` (R192). -/
theorem factorTwos_prod : ∀ (k d s : Nat), (factorTwos k d s).1 * 2 ^ (factorTwos k d s).2 = d * 2 ^ s := by
  intro k
  induction k with
  | zero => intro d s; rfl
  | succ k ih =>
    intro d s
    by_cases h : d % 2 = 0
    · simp only [factorTwos, h, if_true, ih, pow_succ]
      have hd : d / 2 * 2 = d := by omega
      calc d / 2 * (2 ^ s * 2) = (d / 2 * 2) * 2 ^ s := by ring
        _ = d * 2 ^ s := by rw [hd]
    · simp [factorTwos, h]

/-- Enough halvings reach an odd number (R192). -/
theorem factorTwos_odd : ∀ (k d s : Nat), 0 < d → d < 2 ^ k → (factorTwos k d s).1 % 2 = 1 := by
  intro k
  induction k with
  | zero => intro d s h0 h; omega
  | succ k ih =>
    intro d s h0 h
    by_cases hd : d % 2 = 0
    · simp only [factorTwos, hd, if_true]
      exact ih _ _ (by omega) (by rw [pow_succ] at h; omega)
    · have h1 : d % 2 = 1 := by omega
      simp [factorTwos, h1]

/-! ### The retry loops of KEYGEN -/

/-- Everything the prime loop can do: accept a candidate that passed the cheap tests and the primality test, exceed the
attempts, or ask for more (R222, R223, R228). -/
theorem drawPrime_cases (cheap : Nat → Bool) (lo hi : Nat) : ∀ (k : Nat) (draws : List Word),
    drawPrime cheap lo hi k draws = .more ∨ drawPrime cheap lo hi k draws = .raise .attemptsExceeded ∨
    (∃ (c : Nat) (u : Word) (tested rest : List Word), drawPrime cheap lo hi k draws = .done c rest ∧ c = scale u.toNat lo hi ∧ cheap c = true ∧
      isprime c Config.kgRounds tested = .done true rest ∧ tested <:+ draws) := by
  intro k
  induction k with
  | zero => intro draws; exact .inr (.inl rfl)
  | succ k ih =>
    intro draws
    cases draws with
    | nil => exact .inl rfl
    | cons u rest =>
      have skip : ∀ rest', rest' <:+ rest → drawPrime cheap lo hi (k + 1) (u :: rest) = drawPrime cheap lo hi k rest' →
          drawPrime cheap lo hi (k + 1) (u :: rest) = .more ∨
          drawPrime cheap lo hi (k + 1) (u :: rest) = .raise .attemptsExceeded ∨
          (∃ (c : Nat) (u' : Word) (tested r : List Word), drawPrime cheap lo hi (k + 1) (u :: rest) = .done c r ∧ c = scale u'.toNat lo hi ∧
            cheap c = true ∧ isprime c Config.kgRounds tested = .done true r ∧ tested <:+ u :: rest) := by
        intro rest' hsuf heq
        rw [heq]
        rcases ih rest' with h | h | ⟨c, v, t, r, h1, h2, h3, h4, h5⟩
        · exact .inl h
        · exact .inr (.inl h)
        · exact .inr (.inr ⟨c, v, t, r, h1, h2, h3, h4, h5.trans (hsuf.trans (List.suffix_cons _ _))⟩)
      by_cases hc : cheap (scale u.toNat lo hi) = true
      · cases hp : isprime (scale u.toNat lo hi) Config.kgRounds rest with
        | more => exact .inl (by simp [drawPrime, hc, hp])
        | raise e => exact absurd hp (isprime_ne_raise _ _ _ _)
        | done b rest' =>
          cases b with
          | false => exact skip rest' (isprime_rest_suffix _ _ _ _ _ hp) (by simp [drawPrime, hc, hp])
          | true =>
            exact .inr (.inr ⟨_, u, rest, rest', by simp [drawPrime, hc, hp], rfl, hc, hp, List.suffix_cons _ _⟩)
      · exact skip rest (List.suffix_refl _) (by simp [drawPrime, hc])

/-- Everything the exponent loop can do (R225, R228). -/
theorem drawExponent_cases (phi : Nat) : ∀ (k : Nat) (draws : List Word),
    drawExponent phi k draws = .more ∨ drawExponent phi k draws = .raise .attemptsExceeded ∨
    (∃ (c : Nat) (u : Word) (rest : List Word), drawExponent phi k draws = .done c rest ∧ c = scale u.toNat 2 phi ∧ Nat.gcd c phi = 1 ∧
      u :: rest <:+ draws) := by
  intro k
  induction k with
  | zero => intro draws; exact .inr (.inl rfl)
  | succ k ih =>
    intro draws
    cases draws with
    | nil => exact .inl rfl
    | cons u rest =>
      by_cases hc : gcdOf (scale u.toNat 2 phi) phi = 1
      · exact .inr (.inr ⟨_, u, rest, by simp [drawExponent, hc], rfl, hc, List.suffix_refl _⟩)
      · have he : drawExponent phi (k + 1) (u :: rest) = drawExponent phi k rest := by simp [drawExponent, hc]
        rw [he]
        rcases ih rest with h | h | ⟨c, v, r, h1, h2, h3, h4⟩
        · exact .inl h
        · exact .inr (.inl h)
        · exact .inr (.inr ⟨c, v, r, h1, h2, h3, h4.trans (List.suffix_cons _ _)⟩)

end Sys2Proof.Machine
end

