-- ==== Sys2Proof/Laws/State.lean ====
section
/-! SUPPORT. One lemma per field per update of State, true by rfl (takeDraw and plainWrite by cases). -/

namespace Sys2Proof.Machine

variable (s : State)

@[simp] theorem State.accept_ie (c : Word) : (s.accept c).ie = s.ie := rfl
@[simp] theorem State.accept_done (c : Word) : (s.accept c).done = false := rfl
@[simp] theorem State.accept_err (c : Word) : (s.accept c).err = false := rfl
@[simp] theorem State.accept_ovr (c : Word) : (s.accept c).ovr = s.ovr := rfl
@[simp] theorem State.accept_keyValid (c : Word) : (s.accept c).keyValid = s.keyValid := rfl
@[simp] theorem State.accept_cmd (c : Word) : (s.accept c).cmd = c := rfl
@[simp] theorem State.accept_errCode (c : Word) : (s.accept c).errCode = 0 := rfl
@[simp] theorem State.accept_opa (c : Word) : (s.accept c).opa = s.opa := rfl
@[simp] theorem State.accept_opb (c : Word) : (s.accept c).opb = s.opb := rfl
@[simp] theorem State.accept_opn (c : Word) : (s.accept c).opn = s.opn := rfl
@[simp] theorem State.accept_res0 (c : Word) : (s.accept c).res0 = s.res0 := rfl
@[simp] theorem State.accept_res1 (c : Word) : (s.accept c).res1 = s.res1 := rfl
@[simp] theorem State.accept_keys (c : Word) : (s.accept c).keys = s.keys := rfl
@[simp] theorem State.accept_kg (c : Word) : (s.accept c).kg = s.kg := rfl
@[simp] theorem State.accept_inFlight (c : Word) : (s.accept c).inFlight = some ⟨c, s.snapshot, []⟩ := rfl
@[simp] theorem State.accept_inputs (c : Word) : (s.accept c).inputs = s.inputs := rfl
@[simp] theorem State.accept_rngIn (c : Word) : (s.accept c).rngIn = s.rngIn := rfl
@[simp] theorem State.accept_hostRead (c : Word) : (s.accept c).hostRead = s.hostRead := rfl

@[simp] theorem State.clearStatus_ie (v : Word) : (s.clearStatus v).ie = s.ie := rfl
@[simp] theorem State.clearStatus_done (v : Word) : (s.clearStatus v).done = (s.done && !v.getLsbD 1) := rfl
@[simp] theorem State.clearStatus_err (v : Word) : (s.clearStatus v).err = (s.err && !v.getLsbD 2) := rfl
@[simp] theorem State.clearStatus_ovr (v : Word) : (s.clearStatus v).ovr = (s.ovr && !v.getLsbD 3) := rfl
@[simp] theorem State.clearStatus_keyValid (v : Word) : (s.clearStatus v).keyValid = s.keyValid := rfl
@[simp] theorem State.clearStatus_cmd (v : Word) : (s.clearStatus v).cmd = s.cmd := rfl
@[simp] theorem State.clearStatus_errCode (v : Word) : (s.clearStatus v).errCode = s.errCode := rfl
@[simp] theorem State.clearStatus_opa (v : Word) : (s.clearStatus v).opa = s.opa := rfl
@[simp] theorem State.clearStatus_opb (v : Word) : (s.clearStatus v).opb = s.opb := rfl
@[simp] theorem State.clearStatus_opn (v : Word) : (s.clearStatus v).opn = s.opn := rfl
@[simp] theorem State.clearStatus_res0 (v : Word) : (s.clearStatus v).res0 = s.res0 := rfl
@[simp] theorem State.clearStatus_res1 (v : Word) : (s.clearStatus v).res1 = s.res1 := rfl
@[simp] theorem State.clearStatus_keys (v : Word) : (s.clearStatus v).keys = s.keys := rfl
@[simp] theorem State.clearStatus_kg (v : Word) : (s.clearStatus v).kg = s.kg := rfl
@[simp] theorem State.clearStatus_inFlight (v : Word) : (s.clearStatus v).inFlight = s.inFlight := rfl
@[simp] theorem State.clearStatus_inputs (v : Word) : (s.clearStatus v).inputs = s.inputs := rfl
@[simp] theorem State.clearStatus_rngIn (v : Word) : (s.clearStatus v).rngIn = s.rngIn := rfl
@[simp] theorem State.clearStatus_hostRead (v : Word) : (s.clearStatus v).hostRead = s.hostRead := rfl

@[simp] theorem State.writeCtrl_ie (v : Word) : (s.writeCtrl v).ie = v.getLsbD 0 := rfl
@[simp] theorem State.writeCtrl_done (v : Word) : (s.writeCtrl v).done = s.done := rfl
@[simp] theorem State.writeCtrl_err (v : Word) : (s.writeCtrl v).err = s.err := rfl
@[simp] theorem State.writeCtrl_ovr (v : Word) : (s.writeCtrl v).ovr = s.ovr := rfl
@[simp] theorem State.writeCtrl_keyValid (v : Word) : (s.writeCtrl v).keyValid = s.keyValid := rfl
@[simp] theorem State.writeCtrl_cmd (v : Word) : (s.writeCtrl v).cmd = s.cmd := rfl
@[simp] theorem State.writeCtrl_errCode (v : Word) : (s.writeCtrl v).errCode = s.errCode := rfl
@[simp] theorem State.writeCtrl_opa (v : Word) : (s.writeCtrl v).opa = s.opa := rfl
@[simp] theorem State.writeCtrl_opb (v : Word) : (s.writeCtrl v).opb = s.opb := rfl
@[simp] theorem State.writeCtrl_opn (v : Word) : (s.writeCtrl v).opn = s.opn := rfl
@[simp] theorem State.writeCtrl_res0 (v : Word) : (s.writeCtrl v).res0 = s.res0 := rfl
@[simp] theorem State.writeCtrl_res1 (v : Word) : (s.writeCtrl v).res1 = s.res1 := rfl
@[simp] theorem State.writeCtrl_keys (v : Word) : (s.writeCtrl v).keys = s.keys := rfl
@[simp] theorem State.writeCtrl_kg (v : Word) : (s.writeCtrl v).kg = s.kg := rfl
@[simp] theorem State.writeCtrl_inFlight (v : Word) : (s.writeCtrl v).inFlight = s.inFlight := rfl
@[simp] theorem State.writeCtrl_inputs (v : Word) : (s.writeCtrl v).inputs = s.inputs := rfl
@[simp] theorem State.writeCtrl_rngIn (v : Word) : (s.writeCtrl v).rngIn = s.rngIn := rfl
@[simp] theorem State.writeCtrl_hostRead (v : Word) : (s.writeCtrl v).hostRead = s.hostRead := rfl

@[simp] theorem State.setOvr_ie : (s.setOvr).ie = s.ie := rfl
@[simp] theorem State.setOvr_done : (s.setOvr).done = s.done := rfl
@[simp] theorem State.setOvr_err : (s.setOvr).err = s.err := rfl
@[simp] theorem State.setOvr_ovr : (s.setOvr).ovr = true := rfl
@[simp] theorem State.setOvr_keyValid : (s.setOvr).keyValid = s.keyValid := rfl
@[simp] theorem State.setOvr_cmd : (s.setOvr).cmd = s.cmd := rfl
@[simp] theorem State.setOvr_errCode : (s.setOvr).errCode = s.errCode := rfl
@[simp] theorem State.setOvr_opa : (s.setOvr).opa = s.opa := rfl
@[simp] theorem State.setOvr_opb : (s.setOvr).opb = s.opb := rfl
@[simp] theorem State.setOvr_opn : (s.setOvr).opn = s.opn := rfl
@[simp] theorem State.setOvr_res0 : (s.setOvr).res0 = s.res0 := rfl
@[simp] theorem State.setOvr_res1 : (s.setOvr).res1 = s.res1 := rfl
@[simp] theorem State.setOvr_keys : (s.setOvr).keys = s.keys := rfl
@[simp] theorem State.setOvr_kg : (s.setOvr).kg = s.kg := rfl
@[simp] theorem State.setOvr_inFlight : (s.setOvr).inFlight = s.inFlight := rfl
@[simp] theorem State.setOvr_inputs : (s.setOvr).inputs = s.inputs := rfl
@[simp] theorem State.setOvr_rngIn : (s.setOvr).rngIn = s.rngIn := rfl
@[simp] theorem State.setOvr_hostRead : (s.setOvr).hostRead = s.hostRead := rfl

@[simp] theorem State.complete_ie (o : CmdOutcome) : (s.complete o).ie = s.ie := rfl
@[simp] theorem State.complete_done (o : CmdOutcome) : (s.complete o).done = true := rfl
@[simp] theorem State.complete_err (o : CmdOutcome) : (s.complete o).err = o.err.isSome := rfl
@[simp] theorem State.complete_ovr (o : CmdOutcome) : (s.complete o).ovr = s.ovr := rfl
@[simp] theorem State.complete_keyValid (o : CmdOutcome) : (s.complete o).keyValid = (if o.key.isSome then o.err.isNone else s.keyValid) := rfl
@[simp] theorem State.complete_cmd (o : CmdOutcome) : (s.complete o).cmd = s.cmd := rfl
@[simp] theorem State.complete_errCode (o : CmdOutcome) : (s.complete o).errCode = errorCode o.err := rfl
@[simp] theorem State.complete_opa (o : CmdOutcome) : (s.complete o).opa = s.opa := rfl
@[simp] theorem State.complete_opb (o : CmdOutcome) : (s.complete o).opb = s.opb := rfl
@[simp] theorem State.complete_opn (o : CmdOutcome) : (s.complete o).opn = s.opn := rfl
@[simp] theorem State.complete_res0 (o : CmdOutcome) : (s.complete o).res0 = o.res0 := rfl
@[simp] theorem State.complete_res1 (o : CmdOutcome) : (s.complete o).res1 = o.res1 := rfl
@[simp] theorem State.complete_keys (o : CmdOutcome) : (s.complete o).keys = o.key.getD s.keys := rfl
@[simp] theorem State.complete_kg (o : CmdOutcome) : (s.complete o).kg = s.kg := rfl
@[simp] theorem State.complete_inFlight (o : CmdOutcome) : (s.complete o).inFlight = none := rfl
@[simp] theorem State.complete_inputs (o : CmdOutcome) : (s.complete o).inputs = s.inputs := rfl
@[simp] theorem State.complete_rngIn (o : CmdOutcome) : (s.complete o).rngIn = s.rngIn := rfl
@[simp] theorem State.complete_hostRead (o : CmdOutcome) : (s.complete o).hostRead = s.hostRead := rfl

@[simp] theorem State.startStep_ie (rest : List Input) (reply : Option Word) : (s.startStep rest reply).ie = s.ie := rfl
@[simp] theorem State.startStep_done (rest : List Input) (reply : Option Word) : (s.startStep rest reply).done = s.done := rfl
@[simp] theorem State.startStep_err (rest : List Input) (reply : Option Word) : (s.startStep rest reply).err = s.err := rfl
@[simp] theorem State.startStep_ovr (rest : List Input) (reply : Option Word) : (s.startStep rest reply).ovr = s.ovr := rfl
@[simp] theorem State.startStep_keyValid (rest : List Input) (reply : Option Word) : (s.startStep rest reply).keyValid = s.keyValid := rfl
@[simp] theorem State.startStep_cmd (rest : List Input) (reply : Option Word) : (s.startStep rest reply).cmd = s.cmd := rfl
@[simp] theorem State.startStep_errCode (rest : List Input) (reply : Option Word) : (s.startStep rest reply).errCode = s.errCode := rfl
@[simp] theorem State.startStep_opa (rest : List Input) (reply : Option Word) : (s.startStep rest reply).opa = s.opa := rfl
@[simp] theorem State.startStep_opb (rest : List Input) (reply : Option Word) : (s.startStep rest reply).opb = s.opb := rfl
@[simp] theorem State.startStep_opn (rest : List Input) (reply : Option Word) : (s.startStep rest reply).opn = s.opn := rfl
@[simp] theorem State.startStep_res0 (rest : List Input) (reply : Option Word) : (s.startStep rest reply).res0 = s.res0 := rfl
@[simp] theorem State.startStep_res1 (rest : List Input) (reply : Option Word) : (s.startStep rest reply).res1 = s.res1 := rfl
@[simp] theorem State.startStep_keys (rest : List Input) (reply : Option Word) : (s.startStep rest reply).keys = s.keys := rfl
@[simp] theorem State.startStep_kg (rest : List Input) (reply : Option Word) : (s.startStep rest reply).kg = s.kg := rfl
@[simp] theorem State.startStep_inFlight (rest : List Input) (reply : Option Word) : (s.startStep rest reply).inFlight = s.inFlight := rfl
@[simp] theorem State.startStep_inputs (rest : List Input) (reply : Option Word) : (s.startStep rest reply).inputs = rest := rfl
@[simp] theorem State.startStep_rngIn (rest : List Input) (reply : Option Word) : (s.startStep rest reply).rngIn = reply := rfl
@[simp] theorem State.startStep_hostRead (rest : List Input) (reply : Option Word) : (s.startStep rest reply).hostRead = none := rfl

@[simp] theorem State.takeDraw_ie (ctx : InFlight) : (s.takeDraw ctx).ie = s.ie := by
  unfold State.takeDraw; split <;> rfl
@[simp] theorem State.takeDraw_done (ctx : InFlight) : (s.takeDraw ctx).done = s.done := by
  unfold State.takeDraw; split <;> rfl
@[simp] theorem State.takeDraw_err (ctx : InFlight) : (s.takeDraw ctx).err = s.err := by
  unfold State.takeDraw; split <;> rfl
@[simp] theorem State.takeDraw_ovr (ctx : InFlight) : (s.takeDraw ctx).ovr = s.ovr := by
  unfold State.takeDraw; split <;> rfl
@[simp] theorem State.takeDraw_keyValid (ctx : InFlight) : (s.takeDraw ctx).keyValid = s.keyValid := by
  unfold State.takeDraw; split <;> rfl
@[simp] theorem State.takeDraw_cmd (ctx : InFlight) : (s.takeDraw ctx).cmd = s.cmd := by
  unfold State.takeDraw; split <;> rfl
@[simp] theorem State.takeDraw_errCode (ctx : InFlight) : (s.takeDraw ctx).errCode = s.errCode := by
  unfold State.takeDraw; split <;> rfl
@[simp] theorem State.takeDraw_opa (ctx : InFlight) : (s.takeDraw ctx).opa = s.opa := by
  unfold State.takeDraw; split <;> rfl
@[simp] theorem State.takeDraw_opb (ctx : InFlight) : (s.takeDraw ctx).opb = s.opb := by
  unfold State.takeDraw; split <;> rfl
@[simp] theorem State.takeDraw_opn (ctx : InFlight) : (s.takeDraw ctx).opn = s.opn := by
  unfold State.takeDraw; split <;> rfl
@[simp] theorem State.takeDraw_res0 (ctx : InFlight) : (s.takeDraw ctx).res0 = s.res0 := by
  unfold State.takeDraw; split <;> rfl
@[simp] theorem State.takeDraw_res1 (ctx : InFlight) : (s.takeDraw ctx).res1 = s.res1 := by
  unfold State.takeDraw; split <;> rfl
@[simp] theorem State.takeDraw_keys (ctx : InFlight) : (s.takeDraw ctx).keys = s.keys := by
  unfold State.takeDraw; split <;> rfl
@[simp] theorem State.takeDraw_kg (ctx : InFlight) : (s.takeDraw ctx).kg = s.kg := by
  unfold State.takeDraw; split <;> rfl
@[simp] theorem State.takeDraw_inputs (ctx : InFlight) : (s.takeDraw ctx).inputs = s.inputs := by
  unfold State.takeDraw; split <;> rfl
@[simp] theorem State.takeDraw_hostRead (ctx : InFlight) : (s.takeDraw ctx).hostRead = s.hostRead := by
  unfold State.takeDraw; split <;> rfl

@[simp] theorem State.plainWrite_ie (r : Reg) (v : Word) : (s.plainWrite r v).ie = s.ie := by cases r <;> rfl
@[simp] theorem State.plainWrite_done (r : Reg) (v : Word) : (s.plainWrite r v).done = s.done := by cases r <;> rfl
@[simp] theorem State.plainWrite_err (r : Reg) (v : Word) : (s.plainWrite r v).err = s.err := by cases r <;> rfl
@[simp] theorem State.plainWrite_ovr (r : Reg) (v : Word) : (s.plainWrite r v).ovr = s.ovr := by cases r <;> rfl
@[simp] theorem State.plainWrite_keyValid (r : Reg) (v : Word) : (s.plainWrite r v).keyValid = s.keyValid := by cases r <;> rfl
@[simp] theorem State.plainWrite_cmd (r : Reg) (v : Word) : (s.plainWrite r v).cmd = s.cmd := by cases r <;> rfl
@[simp] theorem State.plainWrite_errCode (r : Reg) (v : Word) : (s.plainWrite r v).errCode = s.errCode := by cases r <;> rfl
@[simp] theorem State.plainWrite_res0 (r : Reg) (v : Word) : (s.plainWrite r v).res0 = s.res0 := by cases r <;> rfl
@[simp] theorem State.plainWrite_res1 (r : Reg) (v : Word) : (s.plainWrite r v).res1 = s.res1 := by cases r <;> rfl
@[simp] theorem State.plainWrite_keys (r : Reg) (v : Word) : (s.plainWrite r v).keys = s.keys := by cases r <;> rfl
@[simp] theorem State.plainWrite_inFlight (r : Reg) (v : Word) : (s.plainWrite r v).inFlight = s.inFlight := by cases r <;> rfl
@[simp] theorem State.plainWrite_inputs (r : Reg) (v : Word) : (s.plainWrite r v).inputs = s.inputs := by cases r <;> rfl
@[simp] theorem State.plainWrite_rngIn (r : Reg) (v : Word) : (s.plainWrite r v).rngIn = s.rngIn := by cases r <;> rfl
@[simp] theorem State.plainWrite_hostRead (r : Reg) (v : Word) : (s.plainWrite r v).hostRead = s.hostRead := by cases r <;> rfl

@[simp] theorem State.accept_busy (c : Word) : (s.accept c).busy = true := rfl
@[simp] theorem State.complete_busy (o : CmdOutcome) : (s.complete o).busy = false := rfl
@[simp] theorem State.startStep_busy (rest : List Input) (reply : Option Word) : (s.startStep rest reply).busy = s.busy := rfl
@[simp] theorem State.clearStatus_busy (v : Word) : (s.clearStatus v).busy = s.busy := rfl
@[simp] theorem State.writeCtrl_busy (v : Word) : (s.writeCtrl v).busy = s.busy := rfl
@[simp] theorem State.setOvr_busy : s.setOvr.busy = s.busy := rfl

/-- The operand snapshot depends on the operand, key and configuration registers alone (20_memory.md R87). -/
theorem State.snapshot_congr (s t : State) (ha : t.opa = s.opa) (hb : t.opb = s.opb) (hn : t.opn = s.opn)
    (hk : t.keys = s.keys) (hv : t.keyValid = s.keyValid) (hg : t.kg = s.kg) : t.snapshot = s.snapshot := by
  simp [State.snapshot, ha, hb, hn, hk, hv, hg]

end Sys2Proof.Machine
end

