-- ==== Sys2Proof/Laws/Ops.lean ====
section
/-! SUPPORT. What the shared operations can do: the slot map, host transactions, draws and the engine's turn. -/

namespace Sys2Proof.Machine

/-! ### The register space -/

@[simp] theorem slotReg_slot (r : Reg) : slotReg r.slot = some r := by cases r <;> rfl

/-- No two slots alias and a register has one slot (R31). -/
theorem slotReg_eq_some : ∀ (i : Slot) (r : Reg), slotReg i = some r → i = r.slot := by
  intro i r h
  have : ∀ i : Slot, ∀ r ∈ slotReg i, i = r.slot := by decide
  exact this i r h

theorem slotReg_eq_none_iff : ∀ i : Slot, slotReg i = none ↔ 18 ≤ i.toNat := by decide

@[simp] theorem memRead_slot (s : State) (r : Reg) : s.memRead r.slot = s.readReg r := by simp [State.memRead]

theorem memRead_congr (s t : State) (h : ∀ r, t.readReg r = s.readReg r) (i : Slot) : t.memRead i = s.memRead i := by
  unfold State.memRead; split <;> simp [h]

/-- The bits of the word a read of CTRL returns (R84). -/
theorem ctrlWord_getLsbD (s : State) (k : Nat) : s.ctrlWord.getLsbD k = (decide (k = 0) && s.ie) := by
  have h : s.ctrlWord = if s.ie then 1 else 0 := by unfold State.ctrlWord; cases s.ie <;> rfl
  rw [h]
  rcases k with _ | k <;> cases s.ie <;> simp

/-- The bits of the word a read of STATUS returns (R84). -/
theorem statusWord_getLsbD (s : State) (k : Nat) : s.statusWord.getLsbD k =
    ((decide (k = 0) && s.busy) || (decide (k = 1) && s.done) || (decide (k = 2) && s.err) ||
      (decide (k = 3) && s.ovr) || (decide (k = 4) && s.keyValid)) := by
  have h : ∀ a b c d e : Bool, ∀ j : Fin 32,
      (show Word from 0#27 ++ BitVec.ofBool a ++ BitVec.ofBool b ++ BitVec.ofBool c ++ BitVec.ofBool d
        ++ BitVec.ofBool e).getLsbD j.val =
      ((decide (j.val = 0) && e) || (decide (j.val = 1) && d) || (decide (j.val = 2) && c) ||
      (decide (j.val = 3) && b) || (decide (j.val = 4) && a)) := by decide +kernel
  by_cases hk : k < 32
  · exact h _ _ _ _ _ ⟨k, hk⟩
  · rw [BitVec.getLsbD_of_ge _ _ (by omega)]
    simp [show k ≠ 0 by omega, show k ≠ 1 by omega, show k ≠ 2 by omega, show k ≠ 3 by omega, show k ≠ 4 by omega]

/-- The value of the word a read of ERRCODE returns (R84). -/
theorem errCodeWord_toNat (s : State) : s.errCodeWord.toNat = s.errCode.toNat := by
  have h : ∀ e : BitVec 4, (show Word from 0#28 ++ e).toNat = e.toNat := by decide
  exact h _

/-! ### Host transactions -/

section
variable (t : HostTxn) (s : State)

/-- Everything a host transaction can do (R83 to R90). -/
theorem hostTxn_cases : (∃ i, t = .read i ∧ s.hostTxn t = { s with hostRead := some (s.memRead i) }) ∨
    (∃ i v, t = .write i v ∧ (s.hostTxn t = s ∨ s.hostTxn t = s.writeCtrl v ∨ s.hostTxn t = s.clearStatus v ∨
      (s.busy = true ∧ s.hostTxn t = s.setOvr) ∨ (s.busy = false ∧ i = Reg.cmd.slot ∧ s.hostTxn t = s.accept v) ∨
      (s.busy = false ∧ ∃ r, s.hostTxn t = s.plainWrite r v))) := by
  cases t with
  | read i => exact .inl ⟨i, rfl, rfl⟩
  | write i v =>
    refine .inr ⟨i, v, rfl, ?_⟩
    cases h : slotReg i with
    | none => exact .inl (by simp [State.hostTxn, State.memWrite, h])
    | some r =>
      have hi := slotReg_eq_some i r h
      have hw : s.hostTxn (.write i v) = s.writeReg r v := by simp [State.hostTxn, State.memWrite, h]
      rw [hw]
      cases hb : s.busy <;> cases r <;> simp [State.writeReg, hb, hi] <;>
        exact .inr (.inr (.inr (.inr ⟨_, rfl⟩)))

/-- A host transaction never writes a result or key register, and the ports' future is not its own (R32, R43). -/
theorem hostTxn_keeps : (s.hostTxn t).res0 = s.res0 ∧ (s.hostTxn t).res1 = s.res1 ∧ (s.hostTxn t).keys = s.keys ∧
    (s.hostTxn t).keyValid = s.keyValid ∧ (s.hostTxn t).inputs = s.inputs ∧ (s.hostTxn t).rngIn = s.rngIn := by
  rcases hostTxn_cases t s with ⟨i, -, h⟩ | ⟨i, v, -, h | h | h | ⟨-, h⟩ | ⟨-, -, h⟩ | ⟨-, r, h⟩⟩ <;> rw [h] <;> simp

/-- While a command is in flight a host transaction leaves it, CMD, the operands and the configuration as they are
(R88, R97). -/
theorem hostTxn_keeps_flight (hb : s.busy = true) : (s.hostTxn t).inFlight = s.inFlight ∧
    (s.hostTxn t).cmd = s.cmd ∧ (s.hostTxn t).errCode = s.errCode ∧ (s.hostTxn t).snapshot = s.snapshot := by
  rcases hostTxn_cases t s with ⟨i, -, h⟩ | ⟨i, v, -, h | h | h | ⟨-, h⟩ | ⟨hf, -⟩ | ⟨hf, -⟩⟩
  all_goals first
    | (rw [h]; exact ⟨rfl, rfl, rfl, rfl⟩)
    | (rw [hb] at hf; exact absurd hf (by decide))

end

/-! ### The engine's turn -/

/-- A draw step or none: what the RNG port's reply does (R93, 70_reset_and_hazards.md R288). -/
theorem takeDraw_cases (s : State) (ctx : InFlight) :
    (s.rngIn = none ∧ s.takeDraw ctx = s) ∨
    (∃ u, s.rngIn = some u ∧
      s.takeDraw ctx = { s with rngIn := none, inFlight := some { ctx with draws := ctx.draws ++ [u] } }) := by
  cases h : s.rngIn with
  | none => exact .inl ⟨rfl, by simp [State.takeDraw, h]⟩
  | some u => exact .inr ⟨u, rfl, by simp [State.takeDraw, h]⟩

/-- Everything the engine's turn can do (R93, R94): it always goes on, idle, with a draw step or with the completion. -/
theorem engineTurn_cases (f : Snapshot → List Word → ExecResult) (s : State) :
    (s.inFlight = none ∧ engineTurn f s = .next s) ∨
    (∃ ctx, s.inFlight = some ctx ∧ f ctx.regs ctx.draws = .more ∧ engineTurn f s = .next (s.takeDraw ctx)) ∨
    (∃ ctx o, s.inFlight = some ctx ∧ f ctx.regs ctx.draws = .fin o ∧ engineTurn f s = .next (s.complete o)) := by
  unfold engineTurn
  cases h : s.inFlight with
  | none => exact .inl ⟨rfl, rfl⟩
  | some ctx =>
    cases hf : f ctx.regs ctx.draws with
    | more => exact .inr (.inl ⟨ctx, rfl, hf, by simp [hf]⟩)
    | fin o => exact .inr (.inr ⟨ctx, o, rfl, hf, by simp [hf]⟩)

theorem engineTurn_fin {f : Snapshot → List Word → ExecResult} {s : State} {ctx : InFlight} {o : CmdOutcome}
    (hs : s.inFlight = some ctx) (hf : f ctx.regs ctx.draws = .fin o) : engineTurn f s = .next (s.complete o) := by
  simp [engineTurn, hs, hf]

theorem engineTurn_more {f : Snapshot → List Word → ExecResult} {s : State} {ctx : InFlight}
    (hs : s.inFlight = some ctx) (hf : f ctx.regs ctx.draws = .more) : engineTurn f s = .next (s.takeDraw ctx) := by
  simp [engineTurn, hs, hf]

/-- An outcome without a key leaves the key file (R48, R94). -/
theorem complete_success (s : State) (a b : Word) : s.complete (success a b) =
    { s with inFlight := none, done := true, err := false, errCode := 0, res0 := a, res1 := b } := rfl

/-- An error outcome zeroes the results and leaves the key file (60_exceptions.md R262). -/
theorem complete_error (s : State) (e : CmdError) : s.complete (errorOutcome e) =
    { s with inFlight := none, done := true, err := true, errCode := e.code, res0 := 0, res1 := 0 } := rfl

/-- The completion of a KEYGEN that succeeds (46_keygen.md R229). -/
theorem complete_keygenSuccess (s : State) (k : KeyFile) : s.complete (keygenSuccess k) =
    { s with inFlight := none, done := true, err := false, errCode := 0, res0 := 0, res1 := 0, keys := k,
             keyValid := true } := rfl

/-- The completion of a KEYGEN that fails (R230). -/
theorem complete_keygenFailure (s : State) (e : CmdError) : s.complete (keygenFailure e) =
    { s with inFlight := none, done := true, err := true, errCode := e.code, res0 := 0, res1 := 0,
             keys := KeyFile.zero, keyValid := false } := rfl

end Sys2Proof.Machine
end

