-- ==== Sys2Proof/Laws/Step.lean ====
section
/-! SUPPORT. The engine's step and the step in terms of the execution function of R47. -/

namespace Sys2Proof.Machine

/-- Each arm of exec is the engine's turn with the command's execution function (R47). -/
theorem exec_eq_engineTurn (i : Instr) (s : State) : exec i s = engineTurn (instrResult i) s := by
  cases i <;> rfl

/-- The engine's step is the engine's turn with `exec(c, regs, draws)` of the accepted word, illegal words included. -/
theorem engineStep_eq {s : State} {ctx : InFlight} (h : s.inFlight = some ctx) :
    engineStep s = engineTurn (commandResult ctx.word) s := by
  unfold engineStep
  rw [h]
  simp only
  cases hd : decode ctx.word with
  | ok i =>
    simp only
    rw [exec_eq_engineTurn]
    simp [engineTurn, h, commandResult, hd]
  | error e => simp [execIllegal, engineTurn, h, commandResult, hd]

theorem engineStep_idle {s : State} (h : s.inFlight = none) : engineStep s = .next s := by
  simp [engineStep, h]

/-- Everything the engine's step can do (R93, R94). -/
theorem engineStep_cases (s : State) :
    (s.inFlight = none ∧ engineStep s = .next s) ∨
    (∃ ctx, s.inFlight = some ctx ∧ commandResult ctx.word ctx.regs ctx.draws = .more ∧
      engineStep s = .next (s.takeDraw ctx)) ∨
    (∃ ctx o, s.inFlight = some ctx ∧ commandResult ctx.word ctx.regs ctx.draws = .fin o ∧
      engineStep s = .next (s.complete o)) := by
  cases h : s.inFlight with
  | none => exact .inl ⟨rfl, engineStep_idle h⟩
  | some ctx =>
    rw [engineStep_eq h]
    rcases engineTurn_cases (commandResult ctx.word) s with ⟨hn, -⟩ | ⟨c, hc, hm, he⟩ | ⟨c, o, hc, hf, he⟩
    · rw [h] at hn; exact absurd hn (by simp)
    · obtain rfl : ctx = c := by rw [h] at hc; exact Option.some.inj hc
      exact .inr (.inl ⟨ctx, rfl, hm, he⟩)
    · obtain rfl : ctx = c := by rw [h] at hc; exact Option.some.inj hc
      exact .inr (.inr ⟨ctx, o, rfl, hf, he⟩)

/-- The step runs the first input (R95). -/
theorem step_of_inputs {s : State} {x : Input} {rest : List Input} (h : s.inputs = x :: rest) :
    step s = inputStep x rest s := by
  simp [step, h]

/-- With quiet ports the step is the engine's turn (R99). -/
theorem step_of_quiet {s : State} (h : s.inputs = []) : step s = engineStep (s.startStep [] none) := by
  simp [step, h, inputStep]

/-- The draw request in terms of the execution function (R49). -/
theorem rngReq_iff (s : State) : s.rngReq = true ↔
    ∃ ctx, s.inFlight = some ctx ∧ commandResult ctx.word ctx.regs ctx.draws = .more := by
  unfold State.rngReq
  cases h : s.inFlight with
  | none => simp
  | some ctx =>
    constructor
    · intro hm; exact ⟨ctx, rfl, eq_of_beq hm⟩
    · rintro ⟨c, hc, hm⟩
      obtain rfl : ctx = c := Option.some.inj hc
      exact beq_iff_eq.mpr hm

end Sys2Proof.Machine
end

