-- ==== Sys2Proof/Laws/HostProgram.lean ====
section
/-! SUPPORT. What a pseudo-instruction's host writes do, and one step of a run. -/

namespace Sys2Proof.Machine

/-- The command a pseudo-instruction issues is well formed: its word decodes to it (R111, R123). -/
theorem decode_encode_pseudo (x : Pseudo) : decode (encode x.instr) = .ok x.instr := by
  cases x with
  | modop k a b n => simp only [Pseudo.instr]; revert k; decide
  | _ => simp only [Pseudo.instr]; decide

/-- While idle the host writes of a pseudo-instruction write its operands and are accepted (R87, R89, R123). -/
theorem hostRun_transactions (x : Pseudo) {s : State} (h : s.inFlight = none) :
    s.hostRun x.transactions = (x.operands s).accept (encode x.instr) := by
  have word : ∀ k : BitVec 4, (0x20 + k.setWidth 32 : Word) =
      encode (if k = 0 then .modadd else if k = 1 then .modsub else .modopInvalid k) := by decide
  cases x with
  | modop k a b n =>
    simp only [Pseudo.instr, ← word]
    simp [State.hostRun, Pseudo.transactions, wr, State.hostTxn, State.memWrite, State.writeReg, State.plainWrite,
      State.busy, h, Pseudo.operands, State.accept]
  | _ =>
    simp [State.hostRun, Pseudo.transactions, wr, State.hostTxn, State.memWrite, State.writeReg, State.plainWrite,
      State.busy, h, Pseudo.operands, Pseudo.instr, encode, formatC, State.accept]

/-- A pseudo-instruction's operands are the operand registers and nothing else (R123). -/
theorem operands_frame (x : Pseudo) (s : State) : (x.operands s).keys = s.keys ∧
    (x.operands s).keyValid = s.keyValid ∧ (x.operands s).kg = s.kg ∧ (x.operands s).ie = s.ie ∧
    (x.operands s).ovr = s.ovr ∧ (x.operands s).inFlight = s.inFlight := by
  cases x <;> exact ⟨rfl, rfl, rfl, rfl, rfl, rfl⟩

/-- A run takes its steps one by one. -/
theorem run_succ (n : Nat) {s t : State} (h : step s = .next t) : State.run (n + 1) s = State.run n t := by
  rw [State.run, h]

end Sys2Proof.Machine
end

