-- ==== Sys2Proof/Tests/Slice0.lean ====
section
/-! SUPPORT. The model's own tests, expected values from the spec (95_test_vectors.md and the rules), and the witnesses
that meet the hypotheses of the statements. -/

open Sys2Proof Sys2Proof.Machine

set_option Elab.async false

namespace Sys2Proof.Tests

/-! ### Well-formedness and decoding: words written out from the fields RSV, UNIT, FN of 30_encoding.md R110, R112 -/

theorem test_wf_refuses_add_operator : ¬ (Instr.modopInvalid 0).WellFormed := by decide
theorem test_wf_refuses_subtract_operator : ¬ (Instr.modopInvalid 1).WellFormed := by decide
theorem test_wf_bounds : (Instr.modopInvalid 2).WellFormed ∧ (Instr.modopInvalid 15).WellFormed ∧ Instr.div.WellFormed := by
  decide

theorem test_decode_div : decode (0b000000000000000000000000#24 ++ 0b0001#4 ++ 0b0000#4) = .ok .div := rfl
theorem test_decode_modadd : decode (0b000000000000000000000000#24 ++ 0b0010#4 ++ 0b0000#4) = .ok .modadd := rfl
theorem test_decode_modsub : decode (0b000000000000000000000000#24 ++ 0b0010#4 ++ 0b0001#4) = .ok .modsub := rfl
theorem test_decode_modop_invalid_first :
    decode (0b000000000000000000000000#24 ++ 0b0010#4 ++ 0b0010#4) = .ok (.modopInvalid 2) := rfl
theorem test_decode_modop_invalid_last :
    decode (0b000000000000000000000000#24 ++ 0b0010#4 ++ 0b1111#4) = .ok (.modopInvalid 15) := rfl
theorem test_decode_modmul : decode (0b000000000000000000000000#24 ++ 0b0011#4 ++ 0b0000#4) = .ok .modmul := rfl
theorem test_decode_modpow : decode (0b000000000000000000000000#24 ++ 0b0100#4 ++ 0b0000#4) = .ok .modpow := rfl
theorem test_decode_gcd : decode (0b000000000000000000000000#24 ++ 0b0101#4 ++ 0b0000#4) = .ok .gcd := rfl
theorem test_decode_isprime : decode (0b000000000000000000000000#24 ++ 0b0110#4 ++ 0b0000#4) = .ok .isprime := rfl
theorem test_decode_modinv : decode (0b000000000000000000000000#24 ++ 0b0111#4 ++ 0b0000#4) = .ok .modinv := rfl
theorem test_decode_keygen : decode (0b000000000000000000000000#24 ++ 0b1000#4 ++ 0b0000#4) = .ok .keygen := rfl
theorem test_decode_xform : decode (0b000000000000000000000000#24 ++ 0b1001#4 ++ 0b0000#4) = .ok .xform := rfl
theorem test_decode_enc : decode (0b000000000000000000000000#24 ++ 0b1001#4 ++ 0b0001#4) = .ok .enc := rfl
theorem test_decode_dec : decode (0b000000000000000000000000#24 ++ 0b1001#4 ++ 0b0010#4) = .ok .dec := rfl

/-- 95_test_vectors.md 2.10. -/
theorem test_decode_illegal :
    ([0x00000000, 0x00000011, 0x0000001F, 0x00000031, 0x00000093, 0x00000100, 0x00000110, 0x00000122, 0x80000010,
      0xFFFFFFFF] : List Word).all (fun c => !(decode c).isOk) = true := by decide +kernel

/-- spec/opcode_table.json: the rows' bits, numbered from bit 0, give the rows' commands and run in the next step. -/
theorem test_table_words : decodeTableWord 32 0x10 = some .div ∧ decodeTableWord 32 0x2F = some (.modopInvalid 15) ∧
    decodeTableWord 8 0x92 = some .dec ∧ decodeTableWord 32 0 = none ∧
    engineStep (State.reset.accept 0x50) = exec .gcd (State.reset.accept 0x50) := ⟨rfl, rfl, rfl, rfl, rfl⟩

/-! ### One step of each command: vectors of 95_test_vectors.md section 2 -/

/-- A block with these operands written. -/
def operands (a b n : Word) : State := { State.reset with opa := a, opb := b, opn := n }

/-- `s` with the command word `c` accepted and these draws received. -/
def flying (c : Word) (s : State) (draws : List Word) : State :=
  { s.accept c with inFlight := some ⟨c, s.snapshot, draws⟩ }

/-- Whether the command is still in flight, and the outcome registers, after a step. -/
def answer (o : Host.Outcome State Fault Refusal) : Option (Bool × BitVec 4 × Word × Word) :=
  match o with
  | .next t => some (t.busy, t.errCode, t.res0, t.res1)
  | .fault _ => none
  | .refused _ => none

/-- The next state of a step, where it goes on. -/
def after (o : Host.Outcome State Fault Refusal) : Option State :=
  match o with
  | .next t => some t
  | .fault _ => none
  | .refused _ => none

/-- The outcome of a command on these operands and draws. -/
def vector (c a b n : Word) (draws : List Word) : Option (Bool × BitVec 4 × Word × Word) :=
  answer (step (flying c (operands a b n) draws))

/-- A block holding the textbook key of 95_test_vectors.md 2.9, with this data in OPA. -/
def keyed (data : Word) : State :=
  { operands data 0 0 with keys := ⟨43, 59, 13, 937, 2537⟩, keyValid := true }

/-- A block configured for KEYGEN. -/
def configured (lo hi min attempts : Word) : State := { State.reset with kg := ⟨lo, hi, min, attempts⟩ }

theorem test_div : vector 0x10 2436 0 13 [] = some (false, 0, 187, 5) := by decide +kernel
theorem test_div_by_zero : vector 0x10 5 0 0 [] = some (false, 2, 0, 0) := by decide +kernel
theorem test_modadd_wraps : vector 0x20 0xFFFFFFF0 0xFFFFFFF0 0xFFFFFFFB [] = some (false, 0, 0xFFFFFFE5, 0) := by
  decide +kernel
theorem test_modadd_sum_is_max : vector 0x20 0x80000000 0x7FFFFFFF 0x80000001 [] = some (false, 0, 0x7FFFFFFE, 0) := by
  decide +kernel
theorem test_modsub_borrows : vector 0x21 5 0xFFFFFFFA 0xFFFFFFFB [] = some (false, 0, 6, 0) := by decide +kernel
theorem test_modsub_reduces : vector 0x21 3 10 7 [] = some (false, 0, 0, 0) := by decide +kernel
theorem test_modop_invalid : vector 0x2F 1 2 0 [] = some (false, 1, 0, 0) := by decide +kernel
theorem test_modmul : vector 0x30 0x12345678 0x9ABCDEF0 0xFFFFFFFB [] = some (false, 0, 0x5B31B406, 0) := by decide +kernel
theorem test_modmul_all_bits : vector 0x30 0xFFFFFFFA 0xFFFFFFFF 0xFFFFFFFB [] = some (false, 0, 0xFFFFFFF7, 0) := by
  decide +kernel
theorem test_modpow : vector 0x40 65 13 2537 [] = some (false, 0, 1722, 0) := by decide +kernel
theorem test_modpow_modulus_one : vector 0x40 5 0 1 [] = some (false, 0, 0, 0) := by decide +kernel
theorem test_gcd : vector 0x50 0x80000000 0xC0000000 0 [] = some (false, 0, 0x40000000, 0) := by decide +kernel
theorem test_gcd_zeros : vector 0x50 0 0 0 [] = some (false, 0, 0, 0) := by decide +kernel
theorem test_isprime_liar : vector 0x60 561 1 0 [0x15FB6B9F] = some (false, 0, 1, 0) := by decide +kernel
theorem test_isprime_asks_for_more : vector 0x60 43 3 0 [0, 0x80000000] = some (true, 0, 0, 0) := by decide +kernel
theorem test_modinv : vector 0x70 2449 0 2436 [] = some (false, 0, 937, 0) := by decide +kernel
theorem test_modinv_common_factor : vector 0x70 6 0 9 [] = some (false, 3, 0, 0) := by decide +kernel
theorem test_xform : vector 0x90 1722 937 2537 [] = some (false, 0, 65, 0) := by decide +kernel
theorem test_xform_by_zero : vector 0x90 5 3 0 [] = some (false, 2, 0, 0) := by decide +kernel
theorem test_enc : answer (step (flying 0x91 (keyed 65) [])) = some (false, 0, 1722, 0) := by decide +kernel
theorem test_enc_no_key : vector 0x91 65 0 0 [] = some (false, 7, 0, 0) := by decide +kernel
theorem test_dec : answer (step (flying 0x92 (keyed 1722) [])) = some (false, 0, 65, 0) := by decide +kernel
theorem test_dec_no_key : vector 0x92 65 0 0 [] = some (false, 7, 0, 0) := by decide +kernel
theorem test_illegal : vector 0x122 1 2 0 [] = some (false, 6, 0, 0) := by decide +kernel

/-- The draws of vector K1. -/
def drawsK1 : List Word :=
  [0xAC000000] ++ List.replicate 100 0 ++ [0xEC000000] ++ List.replicate 100 0 ++ [0x01300000]

/-- Vector K1: the textbook key. -/
theorem test_keygen : after (step (flying 0x80 (configured 0 64 40 16) drawsK1)) =
    some { configured 0 64 40 16 with
      cmd := 0x80, done := true, keyValid := true, keys := ⟨43, 59, 13, 937, 2537⟩ } := by decide +kernel

/-- Vector K9: no candidate exceeds the lower bound; an earlier key is destroyed (46_keygen.md R230). -/
theorem test_keygen_destroys :
    after (step (flying 0x80 { keyed 0 with kg := ⟨0, 64, 63, 2⟩ } [0xFFFFFFFF, 0xFFFFFFFF])) =
      some { configured 0 64 63 2 with cmd := 0x80, done := true, err := true, errCode := 5 } := by decide +kernel

/-! ### Other tests -/

/-- 10_state.md R52. -/
theorem test_reset_configuration : State.reset.memRead 15 = 0x00010000 ∧ State.reset.memRead 16 = 0x00008000 ∧
    State.reset.memRead 17 = 0x00001000 ∧ State.reset.memRead 1 = 0 := by decide

/-- The STATUS word of the textbook key's owner after a dropped write: KEYVALID, OVR, BUSY (20_memory.md R84, R88). -/
theorem test_status_word : ((flying 0x10 (keyed 65) []).memWrite 4 7).memRead 1 = 0x00000019 := by decide

/-- 95_test_vectors.md 2.11. -/
theorem test_scale : scale 0x24924925 2 9 = 3 ∧ scale 0xFFFFFFFF 0 0xFFFFFFFF = 0xFFFFFFFE ∧ scale 0x12345678 2 2 = 2 ∧
    scale 0xFFFFFFFF 43 40 = 43 := by decide

/-- 90_conflicts.md C1: the document's own overflow test is wrong on these sums, the one the spec follows is right. -/
theorem test_loose_overflow_test_is_wrong : Reference.addmodLoose 0xFFFFFFFE 1 0xFFFFFFFF = 1 ∧
    Reference.addmodLoose 0x80000000 0x7FFFFFFF 0x80000001 = 0x7FFFFFFC ∧
    Reference.addmod 0xFFFFFFFE 1 0xFFFFFFFF = 0 ∧ Reference.addmod 0x80000000 0x7FFFFFFF 0x80000001 = 0x7FFFFFFE := by
  decide +kernel

/-- The trace of 45_modinv.md R213 ends in `g = 1`, `x = 937`. -/
theorem test_xgcd_trace : Reference.xgcd 13 2436 = (1, 937) := by decide +kernel

/-! ### Witnesses: for each statement with hypotheses, inputs that meet all of them, clause by clause -/

/-- `s` with one input to come. -/
def given (x : Input) (s : State) : State := { s with inputs := [x] }

/-- A DIV in flight with operands 2436 and 13. -/
def divFlight : State := flying 0x10 (operands 2436 0 13) []

/-- The context of `divFlight`. -/
def divCtx : InFlight := ⟨0x10, (operands 2436 0 13).snapshot, []⟩

/-- An ISPRIME of 43 in 3 rounds in flight, no draw received. -/
def primeFlight : State := flying 0x60 (operands 43 3 0) []

theorem witness_DecodeIsTheCaseTable : decode 0xFF = .error .noSuchOpcode ∧ decode 0x100 = .error .reservedBits ∧
    decode 0x22 = .ok (.modopInvalid 2) ∧ decode 0x2F = .ok (.modopInvalid 15) := ⟨rfl, rfl, rfl, rfl⟩

theorem witness_OpcodeRowsNameTheDecodedCommand :
    (∃ r ∈ opcodeTable, r.selects 0x22 = true) ∧ (∀ r ∈ opcodeTable, r.selects 0x30 = true → r.mnemonic = "MODMUL") ∧
    ∀ r ∈ opcodeTable, r.selects 0x93 = false := by decide

theorem witness_DecodeAndEncodeAgree : (Instr.modopInvalid 15).WellFormed ∧ encode (.modopInvalid 15) = 0x2F := by decide

theorem witness_IllegalWordEndsWithCodeSix :
    (given (.engine none) (flying 0x93 (keyed 1) [])).inFlight = some ⟨0x93, (keyed 1).snapshot, []⟩ ∧
    decode 0x93 = .error .noSuchOpcode ∧ decode 0x110 = .error .reservedBits ∧
    (given (.engine none) (flying 0x93 (keyed 1) [])).inputs = .engine none :: [] := ⟨rfl, rfl, rfl, rfl⟩

theorem witness_StepRunsTheAcceptedCommand : divFlight.inFlight = some divCtx ∧ decode divCtx.word = .ok .div ∧
    divFlight.inputs = [] ∧ (given (.engine (some 5)) divFlight).inputs = .engine (some 5) :: [] ∧
    decodeTableWord 32 0x92 = some .dec := ⟨rfl, rfl, rfl, rfl, rfl⟩

theorem witness_ResetStepWinsFromAnyState :
    (given (.reset (some (.write 2 0x10)) (some 7)) primeFlight).inputs = .reset (some (.write 2 0x10)) (some 7) :: [] := rfl

/-- The textbook key meets the KeyPair invariants (46_keygen.md R231). -/
theorem textbookKey_valid : (⟨43, 59, 13, 937, 2537⟩ : KeyFile).Valid :=
  ⟨by decide, by decide, by decide, by decide, by decide, by decide, by decide, by decide, by decide, by decide⟩

/-- A command in flight with a valid key meets the invariant. -/
theorem keyedFlight_inv : (flying 0x60 (keyed 43) []).Inv :=
  ⟨⟨fun h => by simp [flying, State.accept, keyed] at h, fun _ => textbookKey_valid⟩, by decide, fun ctx h => by
    obtain rfl : (⟨0x60, (keyed 43).snapshot, []⟩ : InFlight) = ctx := Option.some.inj h
    exact ⟨rfl, rfl, rfl, rfl, rfl, fun k hk => absurd hk (by simp)⟩⟩

theorem witness_EveryStepKeepsTheInvariant : (flying 0x60 (keyed 43) []).Inv ∧
    step (flying 0x60 (keyed 43) []) = .next { flying 0x60 (keyed 43) [] with
      inFlight := none, done := true, res0 := 1 } := ⟨keyedFlight_inv, rfl⟩

/-! #### Reachable states -/

/-- One step with this input, where it goes on. -/
def stepOn (x : Input) (s : State) : State :=
  match inputStep x [] s with
  | .next t => t
  | .fault _ => s
  | .refused _ => s

theorem reachable_stepOn {s : State} (x : Input) (h : Reachable s) : Reachable (stepOn x s) := by
  cases hx : inputStep x [] s with
  | next t => simpa [stepOn, hx] using h.step _ _ x hx
  | fault r => exact r.casesOn
  | refused r => simpa [stepOn, hx] using h

/-- The state after these host writes from reset, the last first, each a step of its own. -/
def written : List (Slot × Word) → State
  | [] => State.reset
  | (i, v) :: rest => stepOn (.host (.write i v)) (written rest)

theorem reachable_written : ∀ ws : List (Slot × Word), Reachable (written ws)
  | [] => .reset
  | (_, _) :: rest => reachable_stepOn _ (reachable_written rest)

/-- `s` with its command in flight having received these draws. -/
def drawn (s : State) (c : Word) (r : Snapshot) (draws : List Word) : State :=
  { s with inputs := [], rngIn := none, hostRead := none, inFlight := some ⟨c, r, draws⟩ }

/-- A reached state with a command that asks for each of these draws in turn receives them. -/
theorem reachable_drawn {s : State} {c : Word} {r : Snapshot} (h : Reachable (drawn s c r [])) (draws : List Word)
    (hm : ∀ k < draws.length, commandResult c r (draws.take k) = .more) : Reachable (drawn s c r draws) := by
  induction draws using List.reverseRecOn with
  | nil => exact h
  | append_singleton ds u ih =>
    have hds : ∀ k < ds.length, commandResult c r (ds.take k) = .more := fun k hk => by
      have := hm k (by simp; omega)
      rwa [List.take_append_of_le_length (by omega)] at this
    have hlast : commandResult c r ds = .more := by
      have := hm ds.length (by simp)
      rwa [List.take_left] at this
    refine (ih hds).step _ _ (.engine (some u)) ?_
    have hf : ((drawn s c r ds).startStep [] (some u)).inFlight = some ⟨c, r, ds⟩ := rfl
    show engineStep ((drawn s c r ds).startStep [] (some u)) = _
    rw [engineStep_eq hf, engineTurn_more hf hlast]
    rfl

/-- The first clause: a reached state with a command in flight (R53 (a)). -/
theorem witness_ReachableStatesReadConsistently_busy : Reachable (written [(2, 0x10), (6, 13), (4, 2436)]) ∧
    ((written [(2, 0x10), (6, 13), (4, 2436)]).memRead 1).getLsbD 0 = true :=
  ⟨reachable_written _, by decide +kernel⟩

/-- An ISPRIME of 43 after two of its three draws is reached. -/
theorem witness_CommandsReadOnlyTheirOperands :
    Reachable (drawn (written [(2, 0x60), (5, 3), (4, 43)]) 0x60 (operands 43 3 0).snapshot [0, 7]) ∧
    (operands 43 3 0).snapshot.opa = (operands 43 3 9).snapshot.opa ∧
    (operands 43 3 0).snapshot.opb = (operands 43 3 9).snapshot.opb ∧
    (operands 43 3 0).snapshot.kg = (keyed 43).snapshot.kg ∧ (keyed 43).snapshot.keyN = (keyed 44).snapshot.keyN := by
  refine ⟨reachable_drawn (s := written [(2, 0x60), (5, 3), (4, 43)]) ?_ _ (by decide +kernel), rfl, rfl, rfl, rfl⟩
  have h : drawn (written [(2, 0x60), (5, 3), (4, 43)]) 0x60 (operands 43 3 0).snapshot [] =
    written [(2, 0x60), (5, 3), (4, 43)] := by decide +kernel
  rw [h]; exact reachable_written _

/-- The draws of the shortest key: p = 2 (tested without a draw), q = 5 with witness 2 in each round, e = 3. -/
def drawsSmallKey : List Word := [0x00000000, 0xC0000000] ++ List.replicate 100 0 ++ [0x80000000]

/-- A KEYGEN in flight whose candidates are 2 to 5. -/
def smallFlight : State := written [(2, 0x80), (17, 16), (16, 1), (15, 6), (14, 2)]

/-- The configuration `smallFlight` took at acceptance. -/
def smallRegs : Snapshot := ⟨0, 0, 0, 0, 0, 0, false, ⟨2, 6, 1, 16⟩⟩

/-- The key a KEYGEN of `smallFlight` leaves: `n = 10`, `phi = 4`. -/
def smallKeyed : State := stepOn (.engine none) (drawn smallFlight 0x80 smallRegs drawsSmallKey)

theorem reachable_smallKeyed : Reachable smallKeyed := by
  refine reachable_stepOn _ (reachable_drawn ?_ _ (by decide +kernel))
  have h : drawn smallFlight 0x80 smallRegs [] = smallFlight := by decide +kernel
  rw [h]; exact reachable_written _

/-- The last clause: a reached state with a valid key (R53 (e)); a reached state without one is `State.reset`. -/
theorem witness_ReachableStatesReadConsistently_keyed : Reachable smallKeyed ∧
    (smallKeyed.memRead 1).getLsbD 4 = true ∧ smallKeyed.keys = ⟨2, 5, 3, 3, 10⟩ :=
  ⟨reachable_smallKeyed, by decide +kernel, by decide +kernel⟩

theorem witness_CodeFourIsNeverReported : Reachable smallKeyed ∧ (keyed 5).errCode ≠ 4 ∧
    step (given (.host (.read 3)) (keyed 5)) = .next { keyed 5 with hostRead := some 0 } :=
  ⟨reachable_smallKeyed, by decide, rfl⟩

/-! #### The host port -/

theorem witness_HostReadReturnsTheSlot : (∀ i : Slot, (given (.host (.read i)) (keyed 5)).inputs = .host (.read i) :: []) ∧
    18 ≤ (18 : Slot).toNat ∧ 18 ≤ (31 : Slot).toNat := ⟨fun _ => rfl, by decide, by decide⟩

theorem witness_ControlAndStatusWrites :
    (given (.host (.write 0 0xFFFFFFFF)) divFlight).inputs = .host (.write 0 0xFFFFFFFF) :: [] ∧
    (given (.host (.write 1 0x0000000E)) divFlight).inputs = .host (.write 1 0x0000000E) :: [] := by decide

theorem witness_CommandWriteWhileIdleIsAccepted : (given (.host (.write 2 0)) (keyed 5)).inFlight = none ∧
    (given (.host (.write 2 0)) (keyed 5)).inputs = .host (.write 2 0) :: [] := by decide

theorem witness_GuardedWriteWhileBusyIsDropped : ∀ i ∈ ([2, 4, 5, 6, 14, 15, 16, 17] : List Slot),
    (given (.host (.write i 9)) divFlight).inFlight = some divCtx ∧
    (given (.host (.write i 9)) divFlight).inputs = .host (.write i 9) :: [] := fun _ _ => ⟨rfl, rfl⟩

/-- The sticky clause: OVR falls in a step that writes 1 to STATUS bit 3. -/
theorem witness_GuardedWriteWhileBusyIsDropped_sticky :
    after (step (given (.host (.write 1 8)) { keyed 5 with ovr := true })) = some (keyed 5) ∧ (keyed 5).ovr = false := by
  decide

theorem witness_PlainWriteWhileIdleTakesEffect : ∀ i ∈ ([4, 5, 6, 14, 15, 16, 17] : List Slot),
    (given (.host (.write i 0xFFFFFFFF)) (keyed 5)).inFlight = none ∧
    (given (.host (.write i 0xFFFFFFFF)) (keyed 5)).inputs = .host (.write i 0xFFFFFFFF) :: [] := fun _ _ => ⟨rfl, rfl⟩

theorem witness_ReadOnlyAndReservedWritesAreIgnored :
    (∀ i ∈ ([3, 7, 13, 18, 31] : List Slot), (given (.host (.write i 1)) divFlight).inputs = .host (.write i 1) :: []) ∧
    (3 : Slot).toNat = 3 ∧ 7 ≤ (7 : Slot).toNat ∧ (13 : Slot).toNat ≤ 13 ∧ 18 ≤ (18 : Slot).toNat :=
  ⟨fun _ _ => rfl, by decide, by decide, by decide, by decide⟩

theorem witness_HostCannotDisturbTheCommandInFlight : divFlight.inFlight = some divCtx := rfl

theorem witness_SameCycleOrderIsAsTheSpecPicks : divFlight.inFlight = some divCtx ∧
    commandResult divCtx.word divCtx.regs divCtx.draws = .fin ⟨none, 187, 5, none⟩ ∧
    divFlight.keys = (none : Option KeyFile).getD divFlight.keys ∧
    (given (.coincide (.write 1 14) none false) divFlight).inputs = .coincide (.write 1 14) none false :: [] ∧
    (given (.coincide (.write 2 0x20) none true) divFlight).inputs = .coincide (.write 2 0x20) none true :: [] := by
  decide +kernel

/-! #### Interrupt, draws and completion -/

theorem witness_InterruptLineIsEnableAndDone : divFlight.inFlight = some divCtx ∧
    commandResult divCtx.word divCtx.regs divCtx.draws = .fin ⟨none, 187, 5, none⟩ ∧
    (given (.engine none) divFlight).inputs = .engine none :: [] ∧
    (given (.host (.write 0 1)) { keyed 5 with done := true }).inputs = .host (.write 0 1) :: [] ∧
    (given (.host (.write 1 2)) { keyed 5 with done := true }).inputs = .host (.write 1 2) :: [] ∧
    (2 : Word).getLsbD 1 = true ∧ (given (.host (.write 2 0x10)) (keyed 5)).inputs = .host (.write 2 0x10) :: [] ∧
    (given (.host (.write 2 0x10)) (keyed 5)).inFlight = none := by decide +kernel

theorem witness_UnrequestedReplyIsNotTaken : divFlight.rngReq = false ∧ (keyed 5).rngReq = false := by decide +kernel

theorem witness_DrawStepAppendsTheReply :
    (given (.engine (some 7)) primeFlight).inFlight = some ⟨0x60, (operands 43 3 0).snapshot, []⟩ ∧
    commandResult 0x60 (operands 43 3 0).snapshot [] = .more ∧
    (given (.engine (some 7)) primeFlight).inputs = .engine (some 7) :: [] := by decide +kernel

/-- A command waiting for a draw meets the invariant. -/
theorem primeFlight_inv (x : Input) : (given x primeFlight).Inv :=
  ⟨⟨fun _ => rfl, fun h => by simp [given, primeFlight, flying, State.accept, operands, State.reset] at h⟩, by
    simp [given, primeFlight, flying, State.accept], fun ctx h => by
    obtain rfl : (⟨0x60, (operands 43 3 0).snapshot, []⟩ : InFlight) = ctx := Option.some.inj h
    exact ⟨rfl, rfl, rfl, rfl, rfl, fun k hk => absurd hk (by simp)⟩⟩

theorem witness_HangsUntilReplyOrReset : (given (.coincide (.write 2 0x10) none true) primeFlight).Inv ∧
    (given (.coincide (.write 2 0x10) none true) primeFlight).rngReq = true ∧
    (given (.coincide (.write 2 0x10) none true) primeFlight).inputs = .coincide (.write 2 0x10) none true :: [] ∧
    (given (.engine none) primeFlight).Inv ∧ (given (.engine none) primeFlight).rngReq = true :=
  ⟨primeFlight_inv _, by decide +kernel, rfl, primeFlight_inv _, by decide +kernel⟩

/-- A KEYGEN that exceeds its attempts, over a valid key. -/
def failingKeygen : State := flying 0x80 { keyed 0 with kg := ⟨0, 64, 63, 2⟩ } [0xFFFFFFFF, 0xFFFFFFFF]

/-- A KEYGEN that fails in the cycle of the host's write: the keys and KEYVALID after it are not those before it. -/
theorem witness_SameCycleOrderIsAsTheSpecPicks_keygen :
    commandResult 0x80 { (keyed 0).snapshot with kg := ⟨0, 64, 63, 2⟩ } [0xFFFFFFFF, 0xFFFFFFFF] =
      .fin ⟨some .attemptsExceeded, 0, 0, some KeyFile.zero⟩ ∧
    failingKeygen.inFlight =
      some ⟨0x80, { (keyed 0).snapshot with kg := ⟨0, 64, 63, 2⟩ }, [0xFFFFFFFF, 0xFFFFFFFF]⟩ ∧
    KeyFile.zero = (some KeyFile.zero).getD failingKeygen.keys ∧ failingKeygen.keys ≠ KeyFile.zero ∧
    (given (.coincide (.write 2 0x91) none false) failingKeygen).inputs = .coincide (.write 2 0x91) none false :: [] := by
  decide +kernel

theorem witness_CompletionWritesTheOutcome : (given (.engine none) failingKeygen).inFlight =
      some ⟨0x80, { (keyed 0).snapshot with kg := ⟨0, 64, 63, 2⟩ }, [0xFFFFFFFF, 0xFFFFFFFF]⟩ ∧
    commandResult 0x80 { (keyed 0).snapshot with kg := ⟨0, 64, 63, 2⟩ } [0xFFFFFFFF, 0xFFFFFFFF] =
      .fin ⟨some .attemptsExceeded, 0, 0, some KeyFile.zero⟩ ∧
    (given (.engine none) failingKeygen).inputs = .engine none :: [] ∧ decodeTableWord 32 0x80 = some .keygen ∧
    commandResult divCtx.word divCtx.regs divCtx.draws = .fin ⟨none, 187, 5, none⟩ := by decide +kernel

theorem witness_ErrorCompletionHasNoPartialEffect : (given (.engine none) failingKeygen).inFlight =
      some ⟨0x80, { (keyed 0).snapshot with kg := ⟨0, 64, 63, 2⟩ }, [0xFFFFFFFF, 0xFFFFFFFF]⟩ ∧
    commandResult 0x80 { (keyed 0).snapshot with kg := ⟨0, 64, 63, 2⟩ } [0xFFFFFFFF, 0xFFFFFFFF] =
      .fin ⟨some .attemptsExceeded, 0, 0, some KeyFile.zero⟩ ∧
    commandResult 0x10 (operands 5 0 0).snapshot [] = .fin ⟨some .divisionByZero, 0, 0, none⟩ ∧
    (given (.engine none) (flying 0x10 (operands 5 0 0) [])).inFlight = some ⟨0x10, (operands 5 0 0).snapshot, []⟩ := by
  decide +kernel

theorem witness_AcknowledgementClearsTheFlags :
    (given (.host (.write 1 6)) { keyed 5 with done := true, err := true }).inputs = .host (.write 1 6) :: [] ∧
    (given (.host (.write 2 0)) { keyed 5 with done := true, err := true }).inputs = .host (.write 2 0) :: [] ∧
    (given (.host (.write 2 0)) { keyed 5 with done := true, err := true }).inFlight = none := by decide

theorem witness_CommandsEndWithTheirOwnCodes :
    commandResult 0x70 (operands 6 0 9).snapshot [] = .fin ⟨some .inverseUndefined, 0, 0, none⟩ := by decide +kernel

theorem witness_EngineAndHostKeepTheirFrames :
    after (exec .isprime { primeFlight with rngIn := some 9 }) =
      some { primeFlight with inFlight := some ⟨0x60, (operands 43 3 0).snapshot, [9]⟩ } ∧
    (after (exec .div divFlight)).isSome = true ∧ 7 ≤ (13 : Slot).toNat ∧ (13 : Slot).toNat ≤ 13 := by decide +kernel

theorem witness_KeysChangeOnlyByKeygenOrReset : after (step failingKeygen) =
      some { failingKeygen with
        inFlight := none, done := true, err := true, errCode := 5, keys := KeyFile.zero, keyValid := false } ∧
    failingKeygen.keys ≠ KeyFile.zero ∧
    after (step (given (.reset none none) (keyed 5))) = some State.reset ∧ (keyed 5).keyValid = true := by decide +kernel

/-- The endless run of a DIV with an engine that moves in every step. -/
def endlessTrace : Nat → State
  | 0 => divFlight
  | _ + 1 => { operands 2436 0 13 with cmd := 0x10, done := true, res0 := 187, res1 := 5 }

theorem witness_AcceptedCommandsReachTheirCompletion : EndlessRun (fun _ => .engine none) endlessTrace ∧
    EngineFair (fun _ => .engine none) endlessTrace ∧ CollaboratorLive (fun _ => .engine none) endlessTrace ∧
    (endlessTrace 0).inFlight = some divCtx := by
  refine ⟨fun k => ⟨fun _ _ => by simp, ?_⟩, fun k _ _ => ⟨k, le_rfl, by simp [Input.engineReply]⟩, fun k h => ?_, rfl⟩
  · cases k <;> rfl
  · cases k with
    | zero => exact absurd h (by decide +kernel)
    | succ n => exact absurd (show false = true from h) (by decide)

/-- A run with draws: an ISPRIME of 3 in one round, an engine that moves in every step and a collaborator that offers 0
in every step; the request of the first step is answered, with witness 2. -/
def drawingTrace : Nat → State
  | 0 => flying 0x60 (operands 3 1 0) []
  | 1 => flying 0x60 (operands 3 1 0) [0]
  | _ + 2 => { operands 3 1 0 with cmd := 0x60, done := true, res0 := 1, rngIn := some 0 }

theorem witness_AcceptedCommandsReachTheirCompletion_draws : EndlessRun (fun _ => .engine (some 0)) drawingTrace ∧
    EngineFair (fun _ => .engine (some 0)) drawingTrace ∧ CollaboratorLive (fun _ => .engine (some 0)) drawingTrace ∧
    (drawingTrace 0).inFlight = some ⟨0x60, (operands 3 1 0).snapshot, []⟩ ∧ (drawingTrace 0).rngReq = true := by
  refine ⟨fun k => ⟨fun _ _ => by simp, ?_⟩, fun k _ _ => ⟨k, le_rfl, by simp [Input.engineReply]⟩,
    fun k _ => ⟨k, le_rfl, 0, rfl⟩, rfl, by decide +kernel⟩
  have more : commandResult 0x60 (operands 3 1 0).snapshot [] = .more := by decide +kernel
  have fin : commandResult 0x60 (operands 3 1 0).snapshot [0] = .fin ⟨none, 1, 0, none⟩ := by decide +kernel
  match k with
  | 0 =>
    have h : ((drawingTrace 0).startStep [] (some 0)).inFlight = some ⟨0x60, (operands 3 1 0).snapshot, []⟩ := rfl
    show engineStep ((drawingTrace 0).startStep [] (some 0)) = _
    rw [engineStep_eq h, engineTurn_more h more]; rfl
  | 1 =>
    have h : ((drawingTrace 1).startStep [] (some 0)).inFlight = some ⟨0x60, (operands 3 1 0).snapshot, [0]⟩ := rfl
    show engineStep ((drawingTrace 1).startStep [] (some 0)) = _
    rw [engineStep_eq h, engineTurn_fin h fin]; rfl
  | _ + 2 => rfl

theorem witness_PseudoInstructionLeavesTheBlockIdle : (keyed 5).inFlight = none ∧
    (∀ c r, Pseudo.div 7 2 ≠ .isprime c r) ∧ Pseudo.div 7 2 ≠ .keygen ∧ (2 : Word) ≠ 0 :=
  ⟨rfl, fun _ _ => by simp, by simp, by decide⟩

/-! #### Commands: one state for each clause -/

theorem witness_DivAnswersQuotientAndRemainder : divFlight.inFlight = some divCtx ∧ divCtx.regs.opn ≠ 0 ∧
    (flying 0x10 (operands 0 0 0) []).inFlight = some ⟨0x10, (operands 0 0 0).snapshot, []⟩ ∧
    (operands 0 0 0).snapshot.opn = 0 := by decide

theorem witness_ModaddAnswersTheSumModuloN : ∃ (s : State) (ctx : InFlight), s.inFlight = some ctx ∧ ctx.regs.opn = 0xFFFFFFFF ∧ ctx.regs.opn ≠ 0 :=
  ⟨flying 0x20 (operands 0xFFFFFFFE 1 0xFFFFFFFF) [], _, rfl, rfl, by decide⟩

theorem witness_ModaddAnswersTheSumModuloN_zero : ∃ (s : State) (ctx : InFlight), s.inFlight = some ctx ∧ ctx.regs.opn = 0 :=
  ⟨flying 0x20 (operands 3 4 0) [], _, rfl, rfl⟩

theorem witness_ModsubAnswersTheDifferenceModuloN : ∃ (s : State) (ctx : InFlight), s.inFlight = some ctx ∧ ctx.regs.opn ≠ 0 ∧
    6 < ctx.regs.opn.toNat ∧ (6 + ctx.regs.opb.toNat) % ctx.regs.opn.toNat = ctx.regs.opa.toNat % ctx.regs.opn.toNat :=
  ⟨flying 0x21 (operands 5 0xFFFFFFFA 0xFFFFFFFB) [], _, rfl, by decide, by decide, by decide⟩

theorem witness_ModsubAnswersTheDifferenceModuloN_zero : ∃ (s : State) (ctx : InFlight), s.inFlight = some ctx ∧ ctx.regs.opn = 0 :=
  ⟨flying 0x21 (operands 3 4 0) [], _, rfl, rfl⟩

theorem witness_UnsupportedOperatorEndsWithCodeOne : 2 ≤ (2 : BitVec 4).toNat ∧ 2 ≤ (15 : BitVec 4).toNat ∧
    ∃ ctx, (flying 0x2F (operands 1 2 0) []).inFlight = some ctx := ⟨by decide, by decide, _, rfl⟩

theorem witness_ModmulAnswersTheProductModuloN : ∃ (s : State) (ctx : InFlight), s.inFlight = some ctx ∧ ctx.regs.opn ≠ 0 :=
  ⟨flying 0x30 (operands 0xFFFFFFFA 0xFFFFFFFF 0xFFFFFFFB) [], _, rfl, by decide⟩

theorem witness_ModmulAnswersTheProductModuloN_zero : ∃ (s : State) (ctx : InFlight), s.inFlight = some ctx ∧ ctx.regs.opn = 0 :=
  ⟨flying 0x30 (operands 3 4 0) [], _, rfl, rfl⟩

theorem witness_ModpowAnswersThePowerModuloN : ∃ (s : State) (ctx : InFlight), s.inFlight = some ctx ∧ ctx.regs.opn = 1 ∧ ctx.regs.opn ≠ 0 :=
  ⟨flying 0x40 (operands 5 0 1) [], _, rfl, rfl, by decide⟩

theorem witness_ModpowAnswersThePowerModuloN_zero : ∃ (s : State) (ctx : InFlight), s.inFlight = some ctx ∧ ctx.regs.opn = 0 :=
  ⟨flying 0x40 (operands 5 0 0) [], _, rfl, rfl⟩

theorem witness_GcdAnswersTheGreatestCommonDivisor : ∃ (s : State) (ctx : InFlight), s.inFlight = some ctx ∧ 3 ∣ ctx.regs.opa.toNat ∧
    3 ∣ ctx.regs.opb.toNat := ⟨flying 0x50 (operands 12 18 0) [], _, rfl, by decide, by decide⟩

theorem witness_ModinvAnswersTheInverse : ∃ (s : State) (ctx : InFlight), s.inFlight = some ctx ∧ ctx.regs.opn ≠ 0 ∧
    Nat.gcd ctx.regs.opa.toNat ctx.regs.opn.toNat = 1 ∧ 937 < ctx.regs.opn.toNat ∧
    ctx.regs.opa.toNat * 937 % ctx.regs.opn.toNat = 1 % ctx.regs.opn.toNat :=
  ⟨flying 0x70 (operands 13 0 2436) [], _, rfl, by decide, by decide +kernel, by decide +kernel, by decide +kernel⟩

theorem witness_ModinvAnswersTheInverse_errors : (∃ (s : State) (ctx : InFlight), s.inFlight = some ctx ∧ ctx.regs.opn = 0) ∧
    ∃ (s : State) (ctx : InFlight), s.inFlight = some ctx ∧ ctx.regs.opn ≠ 0 ∧ Nat.gcd ctx.regs.opa.toNat ctx.regs.opn.toNat ≠ 1 :=
  ⟨⟨flying 0x70 (operands 0 0 0) [], _, rfl, rfl⟩, flying 0x70 (operands 6 0 9) [], _, rfl, by decide, by decide +kernel⟩

theorem witness_XformAnswersAsModpow : (∃ (s : State) (ctx : InFlight), s.inFlight = some ctx ∧ ctx.regs.opn = 0) ∧
    ∃ (s : State) (ctx : InFlight), s.inFlight = some ctx ∧ ctx.regs.opn ≠ 0 :=
  ⟨⟨flying 0x90 (operands 5 3 0) [], _, rfl, rfl⟩, flying 0x90 (operands 65 13 2537) [], _, rfl, by decide⟩

theorem witness_EncAndDecUseTheStoredKey : (∃ (s : State) (ctx : InFlight), s.inFlight = some ctx ∧ ctx.regs.keyValid = false) ∧
    ∃ (s : State) (ctx : InFlight), s.inFlight = some ctx ∧ ctx.regs.keyValid = true ∧ ctx.regs.keyN ≠ 0 :=
  ⟨⟨flying 0x91 (operands 5 0 0) [], _, rfl, rfl⟩, flying 0x91 (keyed 65) [], _, rfl, rfl, by decide⟩

/-- The textbook key, its two primes, and the ciphertext 1722 of 65. -/
theorem witness_CipherRoundTripReturnsTheData : (⟨43, 59, 13, 937, 2537⟩ : KeyFile).Valid ∧ Nat.Prime 43 ∧ Nat.Prime 59 ∧
    (flying 0x91 (keyed 65) []).inFlight = some ⟨0x91, (keyed 65).snapshot, []⟩ ∧
    (flying 0x92 (keyed 1722) []).inFlight = some ⟨0x92, (keyed 1722).snapshot, []⟩ ∧
    (keyed 65).snapshot.keyValid = true ∧ (keyed 65).snapshot.keyE = 13 ∧ (keyed 65).snapshot.keyD = 937 ∧
    (keyed 65).snapshot.keyN = 2537 ∧ (keyed 1722).snapshot.keyValid = true ∧ (keyed 1722).snapshot.keyE = 13 ∧
    (keyed 1722).snapshot.keyD = 937 ∧ (keyed 1722).snapshot.keyN = 2537 ∧ (keyed 65).snapshot.opa.toNat < 2537 ∧
    (after (exec .enc (flying 0x91 (keyed 65) []))).map State.res0 = some (keyed 1722).snapshot.opa :=
  ⟨textbookKey_valid, by norm_num, by norm_num, rfl, rfl, rfl, rfl, rfl, rfl, rfl, rfl, rfl, rfl, by decide,
    by decide +kernel⟩

/-! #### The primality tester and the key generator -/

/-- 2 is a strong witness for 43: `42 = 21 * 2^1` and `2^21` is 42 modulo 43 (44_primality.md R192). -/
theorem two_strong_for_43 : StrongWitness 43 2 := ⟨by decide, 21, 1, by decide, by decide, .inr ⟨0, by decide, by decide⟩⟩

/-- 3 is no strong witness for 9: it is not coprime to 9. -/
theorem three_not_strong_for_9 : ¬ StrongWitness 9 3 := fun h => absurd h.1 (by decide)

theorem witness_IsprimeAnswersByItsDrawnWitnesses_trivial : ∃ (s : State) (ctx : InFlight), s.inFlight = some ctx ∧ ctx.regs.opa.toNat = 1 :=
  ⟨flying 0x60 (operands 1 5 0) [], _, rfl, rfl⟩

theorem witness_IsprimeAnswersByItsDrawnWitnesses_true : ∃ (s : State) (ctx : InFlight), s.inFlight = some ctx ∧ ctx.regs.opa.toNat = 43 ∧
    ctx.regs.opb.toNat = 1 ∧ 1 ≤ ctx.draws.length ∧
    ∀ u ∈ ctx.draws.take 1, StrongWitness 43 (2 + u.toNat * (43 - 2) / 2 ^ 32) :=
  ⟨flying 0x60 (operands 43 1 0) [0], _, rfl, rfl, rfl, by decide, by
    intro u hu
    obtain rfl : u = 0 := by simpa [flying] using hu
    exact two_strong_for_43⟩

theorem witness_IsprimeAnswersByItsDrawnWitnesses_false : ∃ (s : State) (ctx : InFlight), s.inFlight = some ctx ∧ ctx.regs.opa.toNat = 9 ∧
    ctx.regs.opb.toNat = 1 ∧ ∃ u ∈ ctx.draws.take 1, ¬ StrongWitness 9 (2 + u.toNat * (9 - 2) / 2 ^ 32) :=
  ⟨flying 0x60 (operands 9 1 0) [0x24924925], _, rfl, rfl, rfl, 0x24924925, by simp, by
    have h : 2 + (0x24924925 : Word).toNat * (9 - 2) / 2 ^ 32 = 3 := by decide
    rw [h]; exact three_not_strong_for_9⟩

theorem witness_IsprimeAnswersByItsDrawnWitnesses_more : ∃ (s : State) (ctx : InFlight), s.inFlight = some ctx ∧ ctx.regs.opa.toNat = 43 ∧
    ctx.draws.length < ctx.regs.opb.toNat ∧ s.rngIn = some 7 ∧
    ∀ u ∈ ctx.draws, StrongWitness 43 (2 + u.toNat * (43 - 2) / 2 ^ 32) :=
  ⟨{ flying 0x60 (operands 43 3 0) [0] with rngIn := some 7 }, _, rfl, rfl, by decide, rfl, by
    intro u hu
    obtain rfl : u = 0 := by simpa [flying] using hu
    exact two_strong_for_43⟩

theorem witness_IsprimeHasNoFalseNegatives : ∃ (s : State) (ctx : InFlight), s.inFlight = some ctx ∧ ctx.regs.opa.toNat.Prime ∧
    ctx.regs.opb.toNat ≤ ctx.draws.length :=
  ⟨flying 0x60 (operands 43 1 0) [0], _, rfl, by show Nat.Prime 43; norm_num, by decide⟩

theorem witness_IsprimeConsumesOneDrawPerRound :
    isprime (43 : Word).toNat (3 : Word).toNat [0, 0x80000000, 0xFFFFFFFF, 5] = .done true [5] ∧
    isprime (561 : Word).toNat (2 : Word).toNat [0x15FB6B9F, 0, 5] = .done false [5] ∧
    isprime (4 : Word).toNat (2 : Word).toNat [1] = .done false [1] := by decide +kernel

theorem witness_WitnessLiesInItsRange : 3 ≤ (3 : Word).toNat ∧ 3 ≤ (0xFFFFFFFF : Word).toNat := by decide

theorem witness_ScaledDrawLiesInTheRange : (0 : Word).toNat < (0xFFFFFFFF : Word).toNat ∧
    (2 : Word).toNat ≤ (2 : Word).toNat := by decide

theorem witness_KeygenWritesOrDestroysTheKey_success : ∃ ctx, (flying 0x80 (configured 0 64 40 16) drawsK1).inFlight = some ctx ∧
    keygen ctx.regs.kg ctx.draws = .done ⟨43, 59, 13, 937, 2537⟩ [] := ⟨_, rfl, by decide +kernel⟩

theorem witness_KeygenWritesOrDestroysTheKey_failure : ∃ ctx, failingKeygen.inFlight = some ctx ∧
    keygen ctx.regs.kg ctx.draws = .raise .attemptsExceeded := ⟨_, rfl, by decide +kernel⟩

/-- The shortest key: p = 2 of draw 0, q = 5 of the next, 100 rounds, e = 3 of the last draw (R220). -/
theorem witness_KeygenWritesOrDestroysTheKey_succeeds : KeygenSucceeds ⟨2, 6, 1, 16⟩ drawsSmallKey ⟨2, 5, 3, 3, 10⟩ [] :=
  have q : SearchQ ⟨2, 6, 1, 16⟩ 2 ([0xC0000000] ++ List.replicate 100 0 ++ [0x80000000]) (some 5) [0x80000000] := by
    have h := PrimeSearch.taken (cheap := fun c => 1 < c ∧ c ≤ (2 ^ 32 - 1) / 2 ∧ c ≠ 2) (lo := 2) (hi := 6) 15
      0xC0000000 (List.replicate 100 0 ++ [0x80000000]) [0x80000000] (by decide) (by decide +kernel)
    rwa [show 2 + (0xC0000000 : Word).toNat * (6 - 2) / 2 ^ 32 = 5 from by decide] at h
  ⟨[0xC0000000] ++ List.replicate 100 0 ++ [0x80000000], [0x80000000],
    .taken 15 0 _ _ (by decide) (by decide +kernel), q, .taken 15 0x80000000 _ (by decide +kernel), by decide, by decide,
    by decide⟩

/-- Two candidates 63, neither above `KG_MIN` 63, exceed two attempts. -/
theorem witness_KeygenWritesOrDestroysTheKey_exhausts : KeygenExhausts ⟨0, 64, 63, 2⟩ [0xFFFFFFFF, 0xFFFFFFFF] :=
  .inl ⟨[], .tooCheap 1 _ _ _ _ (by decide) (.tooCheap 0 _ _ _ _ (by decide) (.exhausted []))⟩

theorem witness_KeygenWritesOrDestroysTheKey_more : ∃ ctx, (flying 0x80 (configured 0 64 63 2) [5]).inFlight = some ctx ∧
    keygen ctx.regs.kg ctx.draws = .more := ⟨_, rfl, by decide +kernel⟩

theorem witness_KeygenKeyPairInvariants :
    (flying 0x80 (configured 0 64 40 16) drawsK1).inFlight =
      some ⟨0x80, (configured 0 64 40 16).snapshot, drawsK1⟩ ∧
    after (exec .keygen (flying 0x80 (configured 0 64 40 16) drawsK1)) =
      some { configured 0 64 40 16 with
        cmd := 0x80, done := true, keyValid := true, keys := ⟨43, 59, 13, 937, 2537⟩ } ∧
    (configured 0 64 40 16).snapshot.kg.lo < (configured 0 64 40 16).snapshot.kg.hi := by decide +kernel

theorem witness_KeygenDrawsAreBounded : (1 : Word).toNat * 101 + (1 : Word).toNat * 101 + (1 : Word).toNat ≤
    (List.replicate 203 (0 : Word)).length := by
  rw [List.length_replicate]; decide

/-- The three corner rows; the last at the boundary `KG_MIN = KG_HI - 1`, before and at its last draw. -/
theorem witness_KeygenCornerConfigurationsFail : (⟨0, 64, 40, 0⟩ : KgConfig).attempts = 0 ∧
    (⟨43, 43, 40, 2⟩ : KgConfig).hi ≤ (⟨43, 43, 40, 2⟩ : KgConfig).lo ∧
    (⟨0, 64, 63, 2⟩ : KgConfig).lo < (⟨0, 64, 63, 2⟩ : KgConfig).hi ∧
    (⟨0, 64, 63, 2⟩ : KgConfig).hi.toNat - 1 ≤ (⟨0, 64, 63, 2⟩ : KgConfig).min.toNat ∧
    ([5] : List Word).length < (⟨0, 64, 63, 2⟩ : KgConfig).attempts.toNat ∧
    (⟨0, 64, 63, 2⟩ : KgConfig).attempts.toNat ≤ ([5, 6] : List Word).length := by decide

/-! #### The reference methods -/

theorem witness_SuccessiveSubtractionDivides : (13 : Word) ≠ 0 ∧ Reference.divide 100 7 = (14, 2) := by decide +kernel

theorem witness_NarrowAdderSubtractorMultiplierAreExact : (0xFFFFFFFB : Word) ≠ 0 ∧
    Reference.mulmod 0xFFFFFFFA 0xFFFFFFFF 0xFFFFFFFB = 0xFFFFFFF7 ∧ Reference.submod 5 0xFFFFFFFA 0xFFFFFFFB = 6 := by
  decide +kernel

theorem witness_NarrowSquareAndMultiplyIsExact : (2537 : Word) ≠ 0 ∧ Reference.powmod 65 13 2537 = 1722 := by decide +kernel

theorem witness_ExtendedEuclideanIterationIsExact : (1 : Word) ≠ 0 ∧ Reference.xgcd 0 1 = (1, 0) ∧
    Reference.xgcd 6 9 = (3, 8) := by decide +kernel

end Sys2Proof.Tests
end

section
/-! The scaling function of a random draw (00_scope.md R13). -/

namespace Sys2Proof.Machine

/-- R13's formula with the word count `2 ^ W` written out for `W = 32`. -/
theorem scale_eq (u lo hi : Nat) : scale u lo hi = lo + u * (hi - lo) / 2 ^ 32 := rfl

/-- Settles O41: the draw is a Word, so the scaled offset is below the width of a non-empty range (`scale_lt`); an
empty range has width 0 (`scale_of_le`). -/
theorem scaledDrawLiesInTheRange : Obligations.ScaledDrawLiesInTheRange := by
  intro u lo hi
  refine ⟨fun hlt => ⟨le_scale _ _ _, ?_, scale_eq _ _ _⟩, scale_of_le _ _ _⟩
  exact Nat.le_sub_one_of_lt (scale_lt _ _ _ u.isLt hlt)

end Sys2Proof.Machine
end

section
/-! What one step can do (20_memory.md R95, R96, R99): the step by its input, and the input's parts. -/

namespace Sys2Proof.Machine

/-- Every step runs an input: the first one listed, or the engine's turn when the ports are quiet (R95, R99). -/
theorem step_eq_inputStep (s : State) : ∃ x rest, step s = inputStep x rest s ∧
    (s.inputs = x :: rest ∨ s.inputs = [] ∧ x = .engine none) := by
  cases h : s.inputs with
  | nil => exact ⟨.engine none, [], by simp [step, h], .inr ⟨rfl, rfl⟩⟩
  | cons x rest => exact ⟨x, rest, step_of_inputs h, .inl rfl⟩

/-- Everything a step with the input `x` can do: a host transaction, an engine turn, the two in one cycle in either
order, or reset (R95, R96, R283). -/
theorem inputStep_cases {x : Input} {rest : List Input} {s t : State} (h : inputStep x rest s = .next t) :
    (∃ txn, x = .host txn ∧ t = (s.startStep rest none).hostTxn txn) ∨
    (∃ reply, x = .engine reply ∧ engineStep (s.startStep rest reply) = .next t) ∨
    (∃ txn reply b, x = .coincide txn reply b ∧ hostGoesFirst txn b = true ∧
      engineStep ((s.startStep rest reply).hostTxn txn) = .next t) ∨
    (∃ txn reply b u, x = .coincide txn reply b ∧ engineStep (s.startStep rest reply) = .next u ∧
      t = u.hostTxn txn) ∨
    (∃ txn reply, x = .reset txn reply ∧ t = State.resetStep rest) := by
  cases x with
  | host txn => exact .inl ⟨txn, rfl, (Host.Outcome.next.inj h).symm⟩
  | engine reply => exact .inr (.inl ⟨reply, rfl, h⟩)
  | coincide txn reply b =>
    by_cases hb : hostGoesFirst txn b = true
    · exact .inr (.inr (.inl ⟨txn, reply, b, rfl, hb, by simpa [inputStep, hb] using h⟩))
    · cases he : engineStep (s.startStep rest reply) with
      | next u =>
        have ht : u.hostTxn txn = t := by simpa [inputStep, hb, he, thenHost] using h
        exact .inr (.inr (.inr (.inl ⟨txn, reply, b, u, rfl, he, ht.symm⟩)))
      | fault r => exact r.casesOn
      | refused r => simp [inputStep, hb, he, thenHost] at h
  | reset txn reply => exact .inr (.inr (.inr (.inr ⟨txn, reply, rfl, (Host.Outcome.next.inj h).symm⟩)))

/-- A property of the state that the start of a step, a host transaction and the engine's step keep, and that the reset
step establishes, is kept by every step (R95, R96). -/
theorem inputStep_keeps {P : State → Prop} (hstart : ∀ s rest reply, P s → P (s.startStep rest reply))
    (hhost : ∀ s txn, P s → P (s.hostTxn txn)) (hengine : ∀ s t, P s → engineStep s = .next t → P t)
    (hreset : ∀ rest, P (State.resetStep rest)) {x : Input} {rest : List Input} {s t : State} (hs : P s)
    (h : inputStep x rest s = .next t) : P t := by
  rcases inputStep_cases h with ⟨txn, -, rfl⟩ | ⟨reply, -, he⟩ | ⟨txn, reply, b, -, -, he⟩ |
    ⟨txn, reply, b, u, -, he, rfl⟩ | ⟨txn, reply, -, rfl⟩
  · exact hhost _ _ (hstart _ _ _ hs)
  · exact hengine _ _ (hstart _ _ _ hs) he
  · exact hengine _ _ (hhost _ _ (hstart _ _ _ hs)) he
  · exact hhost _ _ (hengine _ _ (hstart _ _ _ hs) he)
  · exact hreset rest

/-- The step of a host transaction (R83 to R90). -/
theorem step_host {s : State} {txn : HostTxn} {rest : List Input} (hi : s.inputs = .host txn :: rest) :
    step s = .next ((s.startStep rest none).hostTxn txn) := step_of_inputs hi

/-- The engine's step on a command that has finished is its completion step (R94). -/
theorem step_engine_of_fin {s : State} {ctx : InFlight} {o : CmdOutcome} {reply : Option Word} {rest : List Input}
    (hs : s.inFlight = some ctx) (hf : commandResult ctx.word ctx.regs ctx.draws = .fin o)
    (hi : s.inputs = .engine reply :: rest) : step s = .next ((s.startStep rest reply).complete o) := by
  have hs' : (s.startStep rest reply).inFlight = some ctx := hs
  calc step s = engineStep (s.startStep rest reply) := step_of_inputs hi
    _ = engineTurn (commandResult ctx.word) (s.startStep rest reply) := engineStep_eq hs'
    _ = .next ((s.startStep rest reply).complete o) := engineTurn_fin hs' hf

/-- A finished command requests no draw (10_state.md R49). -/
theorem rngReq_of_fin {s : State} {ctx : InFlight} {o : CmdOutcome} (hs : s.inFlight = some ctx)
    (hf : commandResult ctx.word ctx.regs ctx.draws = .fin o) : s.rngReq = false := by
  simp [State.rngReq, hs, hf]

/-! ### Host transactions by slot -/

theorem hostTxn_write_ctrl (s : State) (v : Word) : s.hostTxn (.write 0 v) = s.writeCtrl v := rfl

theorem hostTxn_write_status (s : State) (v : Word) : s.hostTxn (.write 1 v) = s.clearStatus v := rfl

/-- A write to CMD while idle is the acceptance step (R87). -/
theorem hostTxn_write_cmd_of_idle {s : State} (h : s.inFlight = none) (c : Word) :
    s.hostTxn (.write 2 c) = s.accept c := by
  have hw : s.hostTxn (.write 2 c) = if s.busy then s.setOvr else s.accept c := rfl
  rw [hw, if_neg (by simp [State.busy, h])]

/-- A transaction that comes before the engine's turn of its cycle is no acceptance: the command in flight, or that none
is, stays as it was (R96). -/
theorem hostTxn_inFlight_of_goesFirst {txn : HostTxn} {b : Bool} (hb : hostGoesFirst txn b = true) (s : State) :
    (s.hostTxn txn).inFlight = s.inFlight := by
  rcases hostTxn_cases txn s with ⟨i, -, h⟩ | ⟨i, v, rfl, h | h | h | ⟨-, h⟩ | ⟨-, rfl, -⟩ | ⟨-, r, h⟩⟩
  · simp [h]
  · rw [h]
  · simp [h]
  · simp [h]
  · simp [h]
  · exact absurd hb (by simp [hostGoesFirst, Reg.slot])
  · simp [h]

end Sys2Proof.Machine
end

section
/-! The registers that only the engine writes: the results and the key registers, slots 7 to 13 (10_state.md R31, R32, R43). -/

namespace Sys2Proof.Machine

/-- The registers at slots 7 and 8 are the results, at 9 to 13 the key registers (R31). -/
theorem slotReg_result_or_key : ∀ j : Slot, 7 ≤ j.toNat → j.toNat ≤ 13 → slotReg j ∈
    if j.toNat < 9 then [some Reg.res0, some Reg.res1]
    else [some Reg.keyP, some Reg.keyQ, some Reg.keyE, some Reg.keyD, some Reg.keyN] := by decide

/-- What slots 9 to 13 read is determined by the key file (R84). -/
theorem memRead_key_congr {s t : State} (hk : t.keys = s.keys) {j : Slot} (h9 : 9 ≤ j.toNat) (h13 : j.toNat ≤ 13) :
    t.memRead j = s.memRead j := by
  have hj := slotReg_result_or_key j (by omega) h13
  simp only [show ¬ j.toNat < 9 by omega, if_false, List.mem_cons, List.not_mem_nil, or_false] at hj
  rcases hj with hj | hj | hj | hj | hj <;> simp [State.memRead, hj, State.readReg, hk]

/-- What slots 7 to 13 read is determined by the result registers and the key file (R84). -/
theorem memRead_result_or_key_congr {s t : State} (h0 : t.res0 = s.res0) (h1 : t.res1 = s.res1) (hk : t.keys = s.keys)
    {j : Slot} (h7 : 7 ≤ j.toNat) (h13 : j.toNat ≤ 13) : t.memRead j = s.memRead j := by
  by_cases h9 : 9 ≤ j.toNat
  · exact memRead_key_congr hk h9 h13
  · have hj := slotReg_result_or_key j h7 h13
    simp only [show j.toNat < 9 by omega, if_true, List.mem_cons, List.not_mem_nil, or_false] at hj
    rcases hj with hj | hj <;> simp [State.memRead, hj, State.readReg, h0, h1]

end Sys2Proof.Machine
end

section
/-! A key that KEYGEN ends with is a KeyPair (46_keygen.md R224 to R227, R231). -/

namespace Sys2Proof.Machine

/-- A sequence of two pieces of pseudocode ends with a value exactly when both do. -/
theorem Run.bind_eq_done {α β : Type} {x : Run α} {f : α → List Word → Run β} {b : β} {rest : List Word} :
    x.bind f = .done b rest ↔ ∃ a mid, x = .done a mid ∧ f a mid = .done b rest := by
  cases x <;> simp [Run.bind]

/-- A prime that a prime loop of KEYGEN takes is at least 2 and passed the cheap test (R222 to R224). -/
theorem drawPrime_done {cheap : Nat → Bool} {lo hi k c : Nat} {draws rest : List Word}
    (h : drawPrime cheap lo hi k draws = .done c rest) : 2 ≤ c ∧ cheap c = true := by
  rcases drawPrime_cases cheap lo hi k draws with h' | h' | ⟨c', u, tested, r, h', -, hc, hp, -⟩
  · rw [h'] at h; cases h
  · rw [h'] at h; cases h
  · rw [h'] at h; cases h
    have hge := isprime_true_ge _ _ _ _ hp
    exact ⟨by omega, hc⟩

/-- The totient of two different numbers from 2 up is at least 2. -/
theorem two_le_totient {p q : Nat} (hp : 2 ≤ p) (hq : 2 ≤ q) (hpq : p ≠ q) : 2 ≤ totient p q := by
  unfold totient
  rcases Nat.lt_or_gt_of_ne hpq with h | h
  · exact Nat.mul_le_mul (show 1 ≤ p - 1 by omega) (show 2 ≤ q - 1 by omega)
  · exact Nat.mul_le_mul (show 2 ≤ p - 1 by omega) (show 1 ≤ q - 1 by omega)

theorem totient_le_mul (p q : Nat) : totient p q ≤ p * q := Nat.mul_le_mul (Nat.sub_le _ _) (Nat.sub_le _ _)

/-- The public exponent is in `[2, phi)` and coprime to `phi` (R225). At `phi = 2` the range is empty and its only
candidate 2 is not coprime. -/
theorem drawExponent_done {phi k e : Nat} {draws rest : List Word} (hphi : 2 ≤ phi)
    (h : drawExponent phi k draws = .done e rest) : 2 ≤ e ∧ e < phi ∧ Nat.gcd e phi = 1 := by
  rcases drawExponent_cases phi k draws with h' | h' | ⟨c, u, r, h', hu, hg, -⟩
  · rw [h'] at h; cases h
  · rw [h'] at h; cases h
  · rw [h'] at h; cases h
    refine ⟨hu ▸ le_scale _ _ _, ?_, hg⟩
    rcases Nat.lt_or_ge 2 phi with h2 | h2
    · exact hu ▸ scale_lt _ _ _ u.isLt h2
    · obtain rfl : phi = 2 := by omega
      rw [hu, scale_of_le _ _ _ le_rfl] at hg
      exact absurd hg (by decide)

/-- The check of R227 passes for an exponent in its range, and the five numbers are a KeyPair. -/
theorem finishKey_valid {p q e : Nat} {draws rest : List Word} {k : KeyFile} (hp : 2 ≤ p) (hq : 2 ≤ q) (hpq : p ≠ q)
    (hn : p * q < 2 ^ 32) (he : 2 ≤ e) (hlt : e < totient p q) (hg : Nat.gcd e (totient p q) = 1)
    (h : finishKey p q e draws = .done k rest) : k.Valid := by
  have hphi := two_le_totient hp hq hpq
  have hphin := totient_le_mul p q
  have hd : inverse e (totient p q) < totient p q := inverse_lt _ _ (by omega)
  have hinv : e * inverse e (totient p q) % totient p q = 1 := by
    rw [mul_inverse_mod _ _ (by omega) hg, Nat.mod_eq_of_lt hphi]
  have hd1 : 1 ≤ inverse e (totient p q) := by
    by_contra h0
    rw [show inverse e (totient p q) = 0 by omega] at hinv
    simp at hinv
  have hpw : (toWord p).toNat = p := toNat_toWord p (Nat.lt_of_le_of_lt (Nat.le_mul_of_pos_right p (by omega)) hn)
  have hqw : (toWord q).toNat = q := toNat_toWord q (Nat.lt_of_le_of_lt (Nat.le_mul_of_pos_left q (by omega)) hn)
  have hew : (toWord e).toNat = e := toNat_toWord e (by omega)
  have hdw : (toWord (inverse e (totient p q))).toNat = inverse e (totient p q) := toNat_toWord _ (by omega)
  obtain ⟨rfl, -⟩ : ⟨toWord p, toWord q, toWord e, toWord (inverse e (totient p q)), toWord (p * q)⟩ = k ∧
      draws = rest := by simpa [finishKey, mulmod, hinv] using h
  exact {
    p_ge := by rwa [hpw]
    q_ge := by rwa [hqw]
    distinct := fun heq => hpq (by simpa only [hpw, hqw] using congrArg BitVec.toNat heq)
    n_eq := by rw [hpw, hqw, toNat_toWord _ hn]
    e_ge := by rwa [hew]
    e_lt := by rwa [hpw, hqw, hew]
    e_coprime := by rwa [hpw, hqw, hew]
    d_ge := by rwa [hdw]
    d_lt := by rwa [hpw, hqw, hdw]
    inverse := by rwa [hpw, hqw, hew, hdw] }

/-- R231: a key that KEYGEN ends with meets the KeyPair invariants, whatever the configuration and the draws. -/
theorem keygen_done_valid {kg : KgConfig} {draws rest : List Word} {k : KeyFile}
    (h : keygen kg draws = .done k rest) : k.Valid := by
  obtain ⟨p, afterP, hP, h⟩ := Run.bind_eq_done.mp h
  obtain ⟨q, afterQ, hQ, h⟩ := Run.bind_eq_done.mp h
  obtain ⟨e, afterE, hE, h⟩ := Run.bind_eq_done.mp h
  obtain ⟨hp, -⟩ := drawPrime_done hP
  obtain ⟨hq, hcheap⟩ := drawPrime_done hQ
  obtain ⟨-, hqp, hne⟩ := of_decide_eq_true hcheap
  have hn : p * q < 2 ^ 32 := by
    have hle : p * q ≤ Config.maxWord := (Nat.mul_le_mul_left p hqp).trans (Nat.mul_div_le _ _)
    exact Nat.lt_of_le_of_lt hle (by decide)
  obtain ⟨he, hlt, hg⟩ := drawExponent_done (two_le_totient hp hq hne.symm) hE
  exact finishKey_valid hp hq hne.symm hn he hlt hg h

end Sys2Proof.Machine
end

section
/-! The outcomes of the execution function (10_state.md R33, R43, R48; 60_exceptions.md R250). -/

namespace Sys2Proof.Machine

/-- Every error code is at most 7 (R39, R250). -/
theorem errorCode_le (e : Option CmdError) : (errorCode e).toNat ≤ 7 := by
  cases e with
  | none => decide
  | some e => cases e <;> decide

/-- A command with operands `OPA`, `OPB` and modulus `OPN` finishes without a key. -/
theorem modularResult_fin (f : Word → Word → Word → Word) (r : Snapshot) :
    ∃ o, modularResult f r = .fin o ∧ o.key = none := by
  unfold modularResult
  split <;> exact ⟨_, rfl, rfl⟩

/-- A transformation with the stored key finishes without a new key. -/
theorem storedKeyResult_fin (exponent : Word) (r : Snapshot) :
    ∃ o, storedKeyResult exponent r = .fin o ∧ o.key = none := by
  unfold storedKeyResult
  split <;> exact ⟨_, rfl, rfl⟩

/-- DIV finishes without a key. -/
theorem divResult_fin (r : Snapshot) : ∃ o, divResult r [] = .fin o ∧ o.key = none := by
  unfold divResult
  split <;> exact ⟨_, rfl, rfl⟩

/-- MODINV finishes without a key. -/
theorem modinvResult_fin (r : Snapshot) : ∃ o, modinvResult r [] = .fin o ∧ o.key = none := by
  unfold modinvResult
  split
  · exact ⟨_, rfl, rfl⟩
  · split <;> exact ⟨_, rfl, rfl⟩

/-- Only ISPRIME and KEYGEN look at the draws (R33, R47). -/
theorem instrResult_draws_irrelevant {i : Instr} (hp : i ≠ .isprime) (hk : i ≠ .keygen) (r : Snapshot)
    (draws draws' : List Word) : instrResult i r draws = instrResult i r draws' := by
  cases i with
  | isprime => exact absurd rfl hp
  | keygen => exact absurd rfl hk
  | _ => rfl

/-- Every command but ISPRIME and KEYGEN has finished at once, without a key (R47, R48). -/
theorem instrResult_fin_of_no_draws {i : Instr} (hp : i ≠ .isprime) (hk : i ≠ .keygen) (r : Snapshot) :
    ∃ o, instrResult i r [] = .fin o ∧ o.key = none := by
  cases i with
  | div => exact divResult_fin r
  | modadd | modsub | modmul | modpow | xform =>
    simp only [instrResult, modaddResult, modsubResult, modmulResult, modpowResult, xformResult]
    exact modularResult_fin _ r
  | modopInvalid | gcd => exact ⟨_, rfl, rfl⟩
  | isprime => exact absurd rfl hp
  | modinv => exact modinvResult_fin r
  | keygen => exact absurd rfl hk
  | enc | dec => exact storedKeyResult_fin _ r

/-- The outcome of an ISPRIME carries no key (R48). -/
theorem isprimeResult_key {r : Snapshot} {draws : List Word} {o : CmdOutcome} (h : isprimeResult r draws = .fin o) :
    o.key = none := by
  unfold isprimeResult at h
  split at h <;> cases h <;> rfl

/-- A KEYGEN ends with a KeyPair or as a failure that destroys the key (46_keygen.md R229, R230). -/
theorem keygenResult_fin {r : Snapshot} {draws : List Word} {o : CmdOutcome} (h : keygenResult r draws = .fin o) :
    (∃ k : KeyFile, k.Valid ∧ o = keygenSuccess k) ∨ ∃ e, o = keygenFailure e := by
  unfold keygenResult at h
  cases hx : keygen r.kg draws with
  | more => rw [hx] at h; cases h
  | raise e => rw [hx] at h; cases h; exact .inr ⟨e, rfl⟩
  | done k rest => rw [hx] at h; cases h; exact .inl ⟨k, keygen_done_valid hx, rfl⟩

/-- The outcome of every command but KEYGEN carries no key (R48). -/
theorem instrResult_key {i : Instr} (hi : i ≠ .keygen) {r : Snapshot} {draws : List Word} {o : CmdOutcome}
    (h : instrResult i r draws = .fin o) : o.key = none := by
  by_cases hp : i = .isprime
  · subst hp; exact isprimeResult_key h
  · obtain ⟨o', ho', hkey⟩ := instrResult_fin_of_no_draws hp hi r
    rw [instrResult_draws_irrelevant hp hi r draws [], ho'] at h
    exact ExecResult.fin.inj h ▸ hkey

/-- What the outcome of a command word does to the key file: nothing, or it is KEYGEN's, a KeyPair or a failure (R43,
R48). -/
theorem commandResult_fin_key {c : Word} {r : Snapshot} {draws : List Word} {o : CmdOutcome}
    (h : commandResult c r draws = .fin o) : o.key = none ∨
      decode c = .ok .keygen ∧ ((∃ k : KeyFile, k.Valid ∧ o = keygenSuccess k) ∨ ∃ e, o = keygenFailure e) := by
  unfold commandResult at h
  cases hd : decode c with
  | error e =>
    rw [hd] at h; cases h; exact .inl rfl
  | ok i =>
    rw [hd] at h
    by_cases hi : i = .keygen
    · subst hi; exact .inr ⟨rfl, keygenResult_fin h⟩
    · exact .inl (instrResult_key hi h)

end Sys2Proof.Machine
end

section
/-! The invariant (10_state.md R44, R46, R53): it holds at reset and every operation of a step keeps it. -/

namespace Sys2Proof.Machine

/-- The key-file invariant speaks of the key registers and KEYVALID alone (R44). -/
theorem State.KeysOk.congr {s t : State} (h : s.KeysOk) (hk : t.keys = s.keys) (hv : t.keyValid = s.keyValid) :
    t.KeysOk := by
  unfold State.KeysOk
  rw [hk, hv]
  exact h

/-- The invariant survives every change outside the registers it speaks of, and the clearing of DONE and ERR. -/
theorem State.Inv.congr {s t : State} (h : s.Inv) (hk : t.keys = s.keys) (hv : t.keyValid = s.keyValid)
    (hcode : t.errCode = s.errCode) (hcmd : t.cmd = s.cmd) (hf : t.inFlight = s.inFlight)
    (hsnap : s.inFlight ≠ none → t.snapshot = s.snapshot) (hdone : s.done = false → t.done = false)
    (herr : s.err = false → t.err = false) : t.Inv where
  keys_ok := h.keys_ok.congr hk hv
  code_le := hcode ▸ h.code_le
  flight_ok ctx hctx := by
    rw [hf] at hctx
    have hok := h.flight_ok ctx hctx
    exact {
      word_eq := hok.word_eq.trans hcmd.symm
      regs_eq := hok.regs_eq.trans (hsnap (by simp [hctx])).symm
      done_clear := hdone hok.done_clear
      err_clear := herr hok.err_clear
      code_clear := hcode.trans hok.code_clear
      draws_asked := hok.draws_asked }

/-- The base case, whatever the environment will do (R52, R53). -/
theorem resetStep_inv (rest : List Input) : (State.resetStep rest).Inv where
  keys_ok := ⟨fun _ => rfl, nofun⟩
  code_le := Nat.zero_le 7
  flight_ok := nofun

theorem startStep_inv {s : State} (h : s.Inv) (rest : List Input) (reply : Option Word) :
    (s.startStep rest reply).Inv := h.congr rfl rfl rfl rfl rfl (fun _ => rfl) id id

/-- Acceptance takes the operand values from the registers and clears the flags (20_memory.md R87). -/
theorem accept_inv {s : State} (h : s.Inv) (c : Word) : (s.accept c).Inv where
  keys_ok := h.keys_ok.congr rfl rfl
  code_le := by simp
  flight_ok ctx hctx := by
    obtain rfl := Option.some.inj hctx
    exact ⟨rfl, rfl, rfl, rfl, rfl, fun k hk => absurd hk (Nat.not_lt_zero k)⟩

/-- A host transaction accepts a command, or leaves everything the invariant speaks of (R83 to R90, R97). -/
theorem hostTxn_inv {s : State} (h : s.Inv) (txn : HostTxn) : (s.hostTxn txn).Inv := by
  rcases hostTxn_cases txn s with ⟨i, -, ht⟩ | ⟨i, v, -, ht | ht | ht | ⟨-, ht⟩ | ⟨-, -, ht⟩ | ⟨hidle, r, ht⟩⟩ <;> rw [ht]
  · exact h.congr rfl rfl rfl rfl rfl (fun _ => rfl) id id
  · exact h
  · exact h.congr rfl rfl rfl rfl rfl (fun _ => rfl) id id
  · exact h.congr rfl rfl rfl rfl rfl (fun _ => rfl) (fun hd => by simp [hd]) (fun he => by simp [he])
  · exact h.congr rfl rfl rfl rfl rfl (fun _ => rfl) id id
  · exact accept_inv h v
  · have hnone : s.inFlight = none := by simpa [State.busy] using hidle
    exact h.congr (by simp) (by simp) (by simp) (by simp) (by simp) (fun hf => absurd hnone hf) (by simp) (by simp)

/-- A draw that was asked for keeps the record of the draws (R93). -/
theorem takeDraw_inv {s : State} {ctx : InFlight} (h : s.Inv) (hs : s.inFlight = some ctx)
    (hm : commandResult ctx.word ctx.regs ctx.draws = .more) : (s.takeDraw ctx).Inv := by
  rcases takeDraw_cases s ctx with ⟨-, ht⟩ | ⟨u, -, ht⟩ <;> rw [ht]
  · exact h
  · have hok := h.flight_ok ctx hs
    refine ⟨h.keys_ok.congr rfl rfl, h.code_le, fun ctx' hctx' => ?_⟩
    obtain rfl := Option.some.inj hctx'
    refine ⟨hok.word_eq, hok.regs_eq, hok.done_clear, hok.err_clear, hok.code_clear, fun k hk => ?_⟩
    rcases Nat.lt_or_ge k ctx.draws.length with hlt | hge
    · simpa [List.take_append_of_le_length hlt.le] using hok.draws_asked k hlt
    · obtain rfl : k = ctx.draws.length := by simp at hk; omega
      simpa using hm

/-- A completion leaves the key file, or writes a KeyPair, or destroys the key (R94, 46_keygen.md R229, R230). -/
theorem complete_inv {s : State} {c : Word} {r : Snapshot} {draws : List Word} {o : CmdOutcome} (h : s.Inv)
    (hf : commandResult c r draws = .fin o) : (s.complete o).Inv where
  keys_ok := by
    rcases commandResult_fin_key hf with hkey | ⟨-, ⟨k, hk, rfl⟩ | ⟨e, rfl⟩⟩
    · exact h.keys_ok.congr (by simp [hkey]) (by simp [hkey])
    · exact ⟨nofun, fun _ => hk⟩
    · exact ⟨fun _ => rfl, nofun⟩
  code_le := errorCode_le _
  flight_ok := nofun

theorem engineStep_inv {s t : State} (h : s.Inv) (he : engineStep s = .next t) : t.Inv := by
  rcases engineStep_cases s with ⟨-, ht⟩ | ⟨ctx, hs, hm, ht⟩ | ⟨ctx, o, hs, hf, ht⟩ <;>
    obtain rfl := Host.Outcome.next.inj (ht.symm.trans he)
  · exact h
  · exact takeDraw_inv h hs hm
  · exact complete_inv h hf

/-- The invariant is inductive over the steps of every environment (R53). -/
theorem inputStep_inv {x : Input} {rest : List Input} {s t : State} (h : s.Inv) (hx : inputStep x rest s = .next t) :
    t.Inv :=
  inputStep_keeps (fun _ rest reply h => startStep_inv h rest reply) (fun _ txn h => hostTxn_inv h txn)
    (fun _ _ => engineStep_inv) resetStep_inv h hx

/-- Settles O10: the reset step's base case with nothing to come. -/
theorem invariantHoldsAtReset : Obligations.InvariantHoldsAtReset := resetStep_inv []

/-- Settles O11: a step runs one input, and every input's step keeps the invariant. -/
theorem everyStepKeepsTheInvariant : Obligations.EveryStepKeepsTheInvariant := by
  intro s t h hst
  obtain ⟨x, rest, hx, -⟩ := step_eq_inputStep s
  exact inputStep_inv h (hx ▸ hst)

/-- Every reachable state meets the invariant. -/
theorem Reachable.inv {s : State} (h : Reachable s) : s.Inv := by
  induction h with
  | reset => exact invariantHoldsAtReset
  | step s t x _ hx ih => exact inputStep_inv ih hx

end Sys2Proof.Machine
end

section
/-! What an engine turn and a host transaction leave unchanged, and what the host reads (10_state.md R32, R36, R43, R53). -/

namespace Sys2Proof.Machine

/-! ### Frames -/

/-- A draw step ends with a command in flight, as it began. -/
theorem takeDraw_busy {s : State} {ctx : InFlight} (hs : s.inFlight = some ctx) :
    (s.takeDraw ctx).busy = s.busy := by
  rcases takeDraw_cases s ctx with ⟨-, ht⟩ | ⟨u, -, ht⟩ <;> rw [ht]
  simp [State.busy, hs]

/-- A draw step is not visible in STATUS. -/
theorem takeDraw_statusWord {s : State} {ctx : InFlight} (hs : s.inFlight = some ctx) :
    (s.takeDraw ctx).statusWord = s.statusWord := by
  simp [State.statusWord, takeDraw_busy hs]

/-- The registers that no engine turn writes (R32, R36, R88). -/
theorem engineTurn_frame {f : Snapshot → List Word → ExecResult} {s t : State} (h : engineTurn f s = .next t) :
    t.ie = s.ie ∧ t.cmd = s.cmd ∧ t.ovr = s.ovr ∧ t.opa = s.opa ∧ t.opb = s.opb ∧ t.opn = s.opn ∧ t.kg = s.kg := by
  rcases engineTurn_cases f s with ⟨-, ht⟩ | ⟨ctx, -, -, ht⟩ | ⟨ctx, o, -, -, ht⟩ <;>
    obtain rfl := Host.Outcome.next.inj (ht.symm.trans h) <;> simp

/-- An engine turn of a command whose outcome carries no key leaves the key file (R43, R94). -/
theorem engineTurn_keys {f : Snapshot → List Word → ExecResult} {s t : State}
    (hkey : ∀ r draws o, f r draws = .fin o → o.key = none) (h : engineTurn f s = .next t) :
    t.keys = s.keys ∧ t.keyValid = s.keyValid := by
  rcases engineTurn_cases f s with ⟨-, ht⟩ | ⟨ctx, -, -, ht⟩ | ⟨ctx, o, -, hf, ht⟩ <;>
    obtain rfl := Host.Outcome.next.inj (ht.symm.trans h)
  · simp
  · simp
  · simp [hkey _ _ _ hf]

/-- An engine turn after which the command is still in flight leaves what the host reads of its outcome (R93). -/
theorem engineTurn_unfinished {f : Snapshot → List Word → ExecResult} {s t : State} (h : engineTurn f s = .next t)
    (hbusy : t.inFlight ≠ none) : t.res0 = s.res0 ∧ t.res1 = s.res1 ∧ t.keys = s.keys ∧
      t.statusWord = s.statusWord ∧ t.errCode = s.errCode := by
  rcases engineTurn_cases f s with ⟨-, ht⟩ | ⟨ctx, hs, -, ht⟩ | ⟨ctx, o, -, -, ht⟩ <;>
    obtain rfl := Host.Outcome.next.inj (ht.symm.trans h)
  · simp
  · simp [takeDraw_statusWord hs]
  · simp at hbusy

/-- Settles O51: the engine's turn waits, draws or completes, and only KEYGEN's completion carries a key; a host
transaction writes none of the registers at slots 7 to 13. -/
theorem engineAndHostKeepTheirFrames : Obligations.EngineAndHostKeepTheirFrames := by
  refine ⟨fun i s t h => ?_, fun txn s j h7 h13 => ?_⟩
  · rw [exec_eq_engineTurn] at h
    obtain ⟨hie, hcmd, hovr, hopa, hopb, hopn, hkg⟩ := engineTurn_frame h
    refine ⟨hie, hcmd, hovr, hopa, hopb, hopn, hkg, fun hi => engineTurn_keys (fun _ _ _ => instrResult_key hi) h,
      fun hbusy => ?_⟩
    obtain ⟨hres0, hres1, hkeys, hstatus, hcode⟩ := engineTurn_unfinished h hbusy
    have hcodeWord : t.errCodeWord = s.errCodeWord := by simp [State.errCodeWord, hcode]
    exact ⟨hres0, hres1, hkeys, hstatus, hcodeWord⟩
  · obtain ⟨hres0, hres1, hkeys, hvalid, -, -⟩ := hostTxn_keeps txn s
    exact ⟨memRead_result_or_key_congr hres0 hres1 hkeys h7 h13, hvalid⟩

/-! ### Changes of the key registers -/

/-- The engine's step leaves the key file, or completes a KEYGEN (R43, R94). -/
theorem engineStep_keys {s t : State} (h : engineStep s = .next t) : (t.keys = s.keys ∧ t.keyValid = s.keyValid) ∨
    ∃ ctx o, s.inFlight = some ctx ∧ decode ctx.word = .ok .keygen ∧
      commandResult ctx.word ctx.regs ctx.draws = .fin o := by
  rcases engineStep_cases s with ⟨-, ht⟩ | ⟨ctx, -, -, ht⟩ | ⟨ctx, o, hs, hf, ht⟩ <;>
    obtain rfl := Host.Outcome.next.inj (ht.symm.trans h)
  · exact .inl ⟨rfl, rfl⟩
  · exact .inl (by simp)
  · rcases commandResult_fin_key hf with hkey | ⟨hd, -⟩
    · exact .inl (by simp [hkey])
    · exact .inr ⟨ctx, o, hs, hd, hf⟩

/-- An input's step leaves the key file, or it is reset, or it completes a KEYGEN that was in flight and has finished
(R43). A transaction that comes before the engine in its cycle puts no KEYGEN in flight. -/
theorem inputStep_keys {x : Input} {rest : List Input} {s t : State} (h : inputStep x rest s = .next t) :
    (t.keys = s.keys ∧ t.keyValid = s.keyValid) ∨ (∃ txn reply, x = .reset txn reply) ∨
    ∃ ctx o, s.inFlight = some ctx ∧ decode ctx.word = .ok .keygen ∧
      commandResult ctx.word ctx.regs ctx.draws = .fin o := by
  have host : ∀ (u : State) txn, (u.hostTxn txn).keys = u.keys ∧ (u.hostTxn txn).keyValid = u.keyValid := fun u txn =>
    have ⟨_, _, hk, hv, _, _⟩ := hostTxn_keeps txn u
    ⟨hk, hv⟩
  rcases inputStep_cases h with ⟨txn, -, rfl⟩ | ⟨reply, -, he⟩ | ⟨txn, reply, b, -, hb, he⟩ |
    ⟨txn, reply, b, u, -, he, rfl⟩ | ⟨txn, reply, hx, -⟩
  · exact .inl (host _ txn)
  · rcases engineStep_keys he with hk | hk
    · exact .inl hk
    · exact .inr (.inr hk)
  · rcases engineStep_keys he with ⟨hk, hv⟩ | hk
    · exact .inl ⟨hk.trans (host _ txn).1, hv.trans (host _ txn).2⟩
    · rw [hostTxn_inFlight_of_goesFirst hb] at hk
      exact .inr (.inr hk)
  · rcases engineStep_keys he with ⟨hk, hv⟩ | hk
    · exact .inl ⟨(host u txn).1.trans hk, (host u txn).2.trans hv⟩
    · exact .inr (.inr hk)
  · exact .inr (.inl ⟨txn, reply, hx⟩)

/-- Settles O52: by the input of the step; the quiet ports' input is the engine's turn, no reset. -/
theorem keysChangeOnlyByKeygenOrReset : Obligations.KeysChangeOnlyByKeygenOrReset := by
  intro s t hst hchange
  obtain ⟨x, rest, hx, hinput⟩ := step_eq_inputStep s
  rcases inputStep_keys (hx ▸ hst) with ⟨hk, hv⟩ | ⟨txn, reply, rfl⟩ | ⟨ctx, o, hs, hd, hf⟩
  · exact absurd hchange (by simp [hk, hv])
  · rcases hinput with hi | ⟨-, hengine⟩
    · exact .inl ⟨txn, reply, rest, hi⟩
    · cases hengine
  · exact .inr ⟨ctx, hs, hd, rngReq_of_fin hs hf⟩

/-! ### What the host reads -/

/-- The reserved bits of CTRL read 0 (R84). -/
theorem ctrlWord_toNat_le (s : State) : s.ctrlWord.toNat ≤ 1 := by
  unfold State.ctrlWord
  cases s.ie <;> decide

/-- The reserved bits of STATUS read 0 (R84). -/
theorem statusWord_toNat_lt (s : State) : s.statusWord.toNat < 32 := by
  have h : ∀ a b c d e : Bool, (0#27 ++ BitVec.ofBool a ++ BitVec.ofBool b ++ BitVec.ofBool c ++ BitVec.ofBool d
      ++ BitVec.ofBool e).toNat < 32 := by decide
  exact h _ _ _ _ _

/-- Bit 0 of STATUS reads BUSY (R84). -/
theorem statusWord_busy (s : State) : s.statusWord.getLsbD 0 = s.busy := by rw [statusWord_getLsbD]; simp

/-- Bit 1 of STATUS reads DONE (R84). -/
theorem statusWord_done (s : State) : s.statusWord.getLsbD 1 = s.done := by rw [statusWord_getLsbD]; simp

/-- Bit 2 of STATUS reads ERR (R84). -/
theorem statusWord_err (s : State) : s.statusWord.getLsbD 2 = s.err := by rw [statusWord_getLsbD]; simp

/-- Bit 4 of STATUS reads KEYVALID (R84). -/
theorem statusWord_keyValid (s : State) : s.statusWord.getLsbD 4 = s.keyValid := by rw [statusWord_getLsbD]; simp

/-- The reserved slots read 0 (R42). -/
theorem memRead_reserved (s : State) {i : Slot} (h : 18 ≤ i.toNat) : s.memRead i = 0 := by
  simp [State.memRead, (slotReg_eq_none_iff i).mpr h]

/-- The modulus of a KeyPair is the product of two different numbers from 2 up, so at least 6 (R53 (e)). -/
theorem KeyFile.Valid.six_le_n {k : KeyFile} (h : k.Valid) : 6 ≤ k.n.toNat := by
  have hne : k.p.toNat ≠ k.q.toNat := fun heq => h.distinct (BitVec.eq_of_toNat_eq heq)
  have hp := h.p_ge
  have hq := h.q_ge
  rw [h.n_eq]
  rcases Nat.lt_or_gt_of_ne hne with hlt | hlt
  · exact Nat.mul_le_mul (show 2 ≤ k.p.toNat from hp) (show 3 ≤ k.q.toNat by omega)
  · exact Nat.mul_le_mul (show 3 ≤ k.p.toNat by omega) (show 2 ≤ k.q.toNat from hq)

/-- While BUSY reads 1, DONE, ERR and ERRCODE read 0 (R53 (a)). -/
theorem State.Inv.reads_clear_of_busy {s : State} (h : s.Inv) (hbusy : s.busy = true) :
    s.statusWord.getLsbD 1 = false ∧ s.statusWord.getLsbD 2 = false ∧ s.errCodeWord = 0 := by
  obtain ⟨ctx, hctx⟩ := Option.isSome_iff_exists.mp hbusy
  have hok := h.flight_ok ctx hctx
  refine ⟨?_, ?_, BitVec.eq_of_toNat_eq ?_⟩
  · rw [statusWord_done, hok.done_clear]
  · rw [statusWord_err, hok.err_clear]
  · rw [errCodeWord_toNat, hok.code_clear]; rfl

/-- Settles O12: a reachable state meets the invariant, and each clause is what the invariant says of the words read. -/
theorem reachableStatesReadConsistently : Obligations.ReachableStatesReadConsistently := by
  intro s hs
  have hinv := hs.inv
  have h0 : s.memRead 0 = s.ctrlWord := rfl
  have h1 : s.memRead 1 = s.statusWord := rfl
  have h3 : s.memRead 3 = s.errCodeWord := rfl
  obtain ⟨hzero, hpair⟩ := hinv.keys_ok
  rw [h0, h1, h3, statusWord_busy, statusWord_keyValid, errCodeWord_toNat]
  refine ⟨hinv.reads_clear_of_busy, hinv.code_le,
    ⟨ctrlWord_toNat_le s, statusWord_toNat_lt s, fun i => memRead_reserved s⟩, fun hv i h9 h13 => ?_, fun hv => ?_⟩
  · have hreset : State.reset.memRead i = 0 := by
      revert h9 h13; revert i; decide
    exact (memRead_key_congr (s := State.reset) (hzero hv) h9 h13).trans hreset
  · exact ⟨(hpair hv).n_eq, (hpair hv).six_le_n⟩

/-- Settles O8: by reading each of the 32 slots. -/
theorem resetLeavesTheResetValues : Obligations.ResetLeavesTheResetValues :=
  ⟨by decide, rfl, rfl, rfl⟩

end Sys2Proof.Machine
end

section
/-! What a command reads (10_state.md R33). -/

namespace Sys2Proof.Machine

/-- The modular commands read OPA, OPB and OPN alone. -/
theorem modularResult_congr (f : Word → Word → Word → Word) {r r' : Snapshot} (ha : r.opa = r'.opa)
    (hb : r.opb = r'.opb) (hn : r.opn = r'.opn) : modularResult f r = modularResult f r' := by
  simp only [modularResult, ha, hb, hn]

/-- ENC and DEC read OPA, their exponent, KEY_N and KEYVALID alone. -/
theorem storedKeyResult_congr {e e' : Word} {r r' : Snapshot} (ha : r.opa = r'.opa) (he : e = e')
    (hn : r.keyN = r'.keyN) (hv : r.keyValid = r'.keyValid) : storedKeyResult e r = storedKeyResult e' r' := by
  simp only [storedKeyResult, ha, he, hn, hv]

/-- Settles O50: each command's result is a function of its listed registers; and by the invariant the values taken at
acceptance are still those of the registers. -/
theorem commandsReadOnlyTheirOperands : Obligations.CommandsReadOnlyTheirOperands := by
  refine ⟨fun r r' draws draws' fn => ⟨fun ha hn => ?_, fun ha hb hn => ?_, rfl, fun ha hb => ?_, fun hkg => ?_, ?_, ?_⟩,
    fun s ctx hs hctx => ?_⟩
  · simp only [instrResult, divResult, modinvResult, ha, hn, and_self]
  · have hmod : ∀ f, modularResult f r = modularResult f r' := fun f => modularResult_congr f ha hb hn
    simp only [instrResult, modaddResult, modsubResult, modmulResult, modpowResult, xformResult, hmod, and_self]
  · simp only [instrResult, gcdResult, isprimeResult, ha, hb, and_self]
  · simp only [instrResult, keygenResult, hkg]
  · exact storedKeyResult_congr
  · exact storedKeyResult_congr
  · rw [(hs.inv.flight_ok ctx hctx).regs_eq]
    exact ⟨rfl, rfl, rfl, rfl, rfl, rfl, rfl, rfl⟩

end Sys2Proof.Machine
end

section
/-! On every stream of draws a command finishes at one point (10_state.md R47): a piece of pseudocode that has stopped
keeps its answer on more draws, and it asks for a bounded number of draws (44_primality.md R197, 46_keygen.md R232). -/

namespace Sys2Proof.Machine

/-! ### More draws than were asked for (log entry 7) -/

/-- A run that stopped, with these further draws left unconsumed. -/
def Run.leaving {α : Type} (extra : List Word) : Run α → Run α
  | .more => .more
  | .raise e => .raise e
  | .done a rest => .done a (rest ++ extra)

/-- Once it does not ask for more, the pseudocode answers the same on more draws, and leaves the further ones. -/
def StableOnMore {α : Type} (f : List Word → Run α) : Prop :=
  ∀ draws extra, f draws ≠ .more → f (draws ++ extra) = (f draws).leaving extra

theorem StableOnMore.bind {α β : Type} {f : List Word → Run α} {g : α → List Word → Run β} (hf : StableOnMore f)
    (hg : ∀ a, StableOnMore (g a)) : StableOnMore fun draws => (f draws).bind g := by
  intro draws extra h
  have hne : f draws ≠ .more := fun hm => h (by simp [hm, Run.bind])
  simp only [hf draws extra hne]
  cases hx : f draws with
  | more => exact absurd hx hne
  | raise e => rfl
  | done a rest => exact hg a rest extra (by simpa [hx, Run.bind] using h)

theorem rounds_stable (c d s k : Nat) : StableOnMore (rounds c d s k) := by
  induction k with
  | zero => exact fun _ _ _ => rfl
  | succ k ih =>
    intro draws extra h
    cases draws with
    | nil => exact absurd rfl h
    | cons u rest =>
      cases hw : witnessPasses c d s (witness u c) with
      | false => simp [rounds, hw, Run.leaving]
      | true => simpa [rounds, hw] using ih rest extra (by simpa [rounds, hw] using h)

theorem isprime_stable (c k : Nat) : StableOnMore (isprime c k) := by
  intro draws extra h
  by_cases hc : c % 2 = 0 ∨ c = 1
  · simp [isprime_trivial c k _ hc, Run.leaving]
  · push Not at hc
    have hodd := fun draws => isprime_odd c k draws (by omega) hc.2
    rw [hodd] at h
    rw [hodd, hodd]
    exact rounds_stable c _ _ k draws extra h

theorem drawPrime_stable (cheap : Nat → Bool) (lo hi k : Nat) : StableOnMore (drawPrime cheap lo hi k) := by
  induction k with
  | zero => exact fun _ _ _ => rfl
  | succ k ih =>
    intro draws extra h
    cases draws with
    | nil => exact absurd rfl h
    | cons u rest =>
      by_cases hc : cheap (scale u.toNat lo hi) = true
      · have htest := isprime_stable (scale u.toNat lo hi) Config.kgRounds rest extra
        cases hp : isprime (scale u.toNat lo hi) Config.kgRounds rest with
        | more => exact absurd (by simp [drawPrime, hc, hp]) h
        | raise e => exact absurd hp (isprime_ne_raise _ _ _ _)
        | done b rest' =>
          have hmore : isprime (scale u.toNat lo hi) Config.kgRounds (rest ++ extra) = .done b (rest' ++ extra) := by
            simpa [hp, Run.leaving] using htest
          cases b with
          | true => simp [drawPrime, hc, hp, hmore, Run.leaving]
          | false =>
            simpa [drawPrime, hc, hp, hmore] using ih rest' extra (by simpa [drawPrime, hc, hp] using h)
      · simpa [drawPrime, hc] using ih rest extra (by simpa [drawPrime, hc] using h)

theorem drawExponent_stable (phi k : Nat) : StableOnMore (drawExponent phi k) := by
  induction k with
  | zero => exact fun _ _ _ => rfl
  | succ k ih =>
    intro draws extra h
    cases draws with
    | nil => exact absurd rfl h
    | cons u rest =>
      by_cases hc : gcdOf (scale u.toNat 2 phi) phi = 1
      · simp [drawExponent, hc, Run.leaving]
      · simpa [drawExponent, hc] using ih rest extra (by simpa [drawExponent, hc] using h)

theorem finishKey_stable (p q e : Nat) : StableOnMore (finishKey p q e) := by
  intro draws extra _
  simp only [finishKey]
  split <;> rfl

theorem keygen_stable (kg : KgConfig) : StableOnMore (keygen kg) :=
  (drawPrime_stable _ _ _ _).bind fun p => (drawPrime_stable _ _ _ _).bind fun q =>
    (drawExponent_stable _ _).bind fun e => finishKey_stable p q e

/-- ISPRIME asks for more exactly when its test does (R191). -/
theorem isprimeResult_eq_more {r : Snapshot} {draws : List Word} :
    isprimeResult r draws = .more ↔ isprime r.opa.toNat r.opb.toNat draws = .more := by
  unfold isprimeResult
  cases isprime r.opa.toNat r.opb.toNat draws <;> simp

/-- KEYGEN asks for more exactly when `keygen()` does (R221). -/
theorem keygenResult_eq_more {r : Snapshot} {draws : List Word} :
    keygenResult r draws = .more ↔ keygen r.kg draws = .more := by
  unfold keygenResult
  cases keygen r.kg draws <;> simp

theorem isprimeResult_append {r : Snapshot} {draws : List Word} (h : isprimeResult r draws ≠ .more)
    (extra : List Word) : isprimeResult r (draws ++ extra) = isprimeResult r draws := by
  have hstable := isprime_stable _ _ draws extra (mt isprimeResult_eq_more.mpr h)
  simp only [isprimeResult, hstable]
  cases isprime r.opa.toNat r.opb.toNat draws <;> rfl

theorem keygenResult_append {r : Snapshot} {draws : List Word} (h : keygenResult r draws ≠ .more)
    (extra : List Word) : keygenResult r (draws ++ extra) = keygenResult r draws := by
  have hstable := keygen_stable r.kg draws extra (mt keygenResult_eq_more.mpr h)
  simp only [keygenResult, hstable]
  cases keygen r.kg draws <;> rfl

/-- A finished command keeps its outcome on more draws (log entry 7). -/
theorem instrResult_append {i : Instr} {r : Snapshot} {draws : List Word} (h : instrResult i r draws ≠ .more)
    (extra : List Word) : instrResult i r (draws ++ extra) = instrResult i r draws := by
  by_cases hp : i = .isprime
  · subst hp; exact isprimeResult_append h extra
  by_cases hk : i = .keygen
  · subst hk; exact keygenResult_append h extra
  · exact instrResult_draws_irrelevant hp hk r _ _

/-! ### How many draws are asked for -/

/-- On these draws the pseudocode consumes at most `b`, and asks for one more only below `b`. -/
def Run.UsesAtMost {α : Type} (b : Nat) (draws : List Word) : Run α → Prop
  | .more => draws.length < b
  | .raise _ => True
  | .done _ rest => draws.length ≤ rest.length + b

@[simp] theorem Run.usesAtMost_more {α : Type} {b : Nat} {draws : List Word} :
    (Run.more : Run α).UsesAtMost b draws ↔ draws.length < b := Iff.rfl

@[simp] theorem Run.usesAtMost_raise {α : Type} {b : Nat} {draws : List Word} {e : CmdError} :
    (Run.raise e : Run α).UsesAtMost b draws := trivial

@[simp] theorem Run.usesAtMost_done {α : Type} {b : Nat} {draws rest : List Word} {a : α} :
    (Run.done a rest).UsesAtMost b draws ↔ draws.length ≤ rest.length + b := Iff.rfl

/-- What a run consumes of the rest of some draws, after at most `b` of them were consumed. -/
theorem Run.UsesAtMost.after {α : Type} {b b' : Nat} {draws mid : List Word} {x : Run α} (h : x.UsesAtMost b' mid)
    (hmid : draws.length ≤ mid.length + b) : x.UsesAtMost (b' + b) draws := by
  cases x with
  | more => rw [Run.usesAtMost_more] at h ⊢; omega
  | raise e => trivial
  | done a rest => rw [Run.usesAtMost_done] at h ⊢; omega

theorem Run.UsesAtMost.bind {α β : Type} {b b' : Nat} {draws : List Word} {x : Run α} {f : α → List Word → Run β}
    (hx : x.UsesAtMost b draws) (hf : ∀ a mid, (f a mid).UsesAtMost b' mid) :
    (x.bind f).UsesAtMost (b' + b) draws := by
  cases x with
  | more => exact Nat.lt_of_lt_of_le hx (Nat.le_add_left b b')
  | raise e => trivial
  | done a mid => exact (hf a mid).after hx

/-- R195: each round consumes one draw. -/
theorem rounds_usesAtMost (c d s k : Nat) (draws : List Word) : (rounds c d s k draws).UsesAtMost k draws := by
  rcases rounds_cases c d s k draws with ⟨h, hl, -⟩ | ⟨h, hl, -⟩ | ⟨pre, u, rest, he, hl, h, -, -⟩ <;> rw [h]
  · exact hl
  · simp [hl]
  · simp [he]; omega

/-- R197: a test consumes at most one draw per round. -/
theorem isprime_usesAtMost (c k : Nat) (draws : List Word) : (isprime c k draws).UsesAtMost k draws := by
  by_cases hc : c % 2 = 0 ∨ c = 1
  · simp [isprime_trivial c k draws hc]
  · push Not at hc
    rw [isprime_odd c k draws (by omega) hc.2]
    exact rounds_usesAtMost c _ _ k draws

/-- R232: an attempt of a prime loop consumes its own draw and at most `KG_ROUNDS` = 100 of its test. -/
theorem drawPrime_usesAtMost (cheap : Nat → Bool) (lo hi k : Nat) (draws : List Word) :
    (drawPrime cheap lo hi k draws).UsesAtMost (k * 101) draws := by
  induction k generalizing draws with
  | zero => trivial
  | succ k ih =>
    rw [Nat.succ_mul]
    cases draws with
    | nil => simp [drawPrime]
    | cons u rest =>
      by_cases hc : cheap (scale u.toNat lo hi) = true
      · have htest : (isprime (scale u.toNat lo hi) Config.kgRounds rest).UsesAtMost 100 rest :=
          isprime_usesAtMost _ _ _
        cases hp : isprime (scale u.toNat lo hi) Config.kgRounds rest with
        | more =>
          have hlt : rest.length < 100 := by simpa [hp] using htest
          simp [drawPrime, hc, hp]; omega
        | raise e => exact absurd hp (isprime_ne_raise _ _ _ _)
        | done b rest' =>
          have hle : rest.length ≤ rest'.length + 100 := by simpa [hp] using htest
          cases b with
          | true => simp [drawPrime, hc, hp]; omega
          | false => simpa [drawPrime, hc, hp] using (ih rest').after (draws := u :: rest) (by simp; omega)
      · simpa [drawPrime, hc] using (ih rest).after (draws := u :: rest) (by simp)

/-- R232: an attempt of the exponent loop consumes one draw. -/
theorem drawExponent_usesAtMost (phi k : Nat) (draws : List Word) :
    (drawExponent phi k draws).UsesAtMost k draws := by
  induction k generalizing draws with
  | zero => trivial
  | succ k ih =>
    cases draws with
    | nil => simp [drawExponent]
    | cons u rest =>
      by_cases hc : gcdOf (scale u.toNat 2 phi) phi = 1
      · simp [drawExponent, hc]
      · simpa [drawExponent, hc] using (ih rest).after (draws := u :: rest) (by simp)

/-- The exponent `d` and the check of R227 consume no draw. -/
theorem finishKey_usesAtMost (p q e : Nat) (draws : List Word) : (finishKey p q e draws).UsesAtMost 0 draws := by
  simp only [finishKey]
  split
  · trivial
  · exact Nat.le_refl _

/-- R232: the draws KEYGEN asks for are bounded by its configuration. -/
theorem keygen_usesAtMost (kg : KgConfig) (draws : List Word) : (keygen kg draws).UsesAtMost
    (kg.attempts.toNat * 101 + kg.attempts.toNat * 101 + kg.attempts.toNat) draws :=
  have huses := (drawPrime_usesAtMost _ _ _ _ _).bind fun p _ => (drawPrime_usesAtMost _ _ _ _ _).bind fun q _ =>
    (drawExponent_usesAtMost _ _ _).bind fun e _ => finishKey_usesAtMost p q e _
  have hsum : 0 + kg.attempts.toNat + kg.attempts.toNat * 101 + kg.attempts.toNat * 101 =
      kg.attempts.toNat * 101 + kg.attempts.toNat * 101 + kg.attempts.toNat := by omega
  hsum ▸ huses

/-- R232: KEYGEN asks for more only below its bound. -/
theorem keygen_more_length {kg : KgConfig} {draws : List Word} (h : keygen kg draws = .more) :
    draws.length < kg.attempts.toNat * 101 + kg.attempts.toNat * 101 + kg.attempts.toNat :=
  Run.usesAtMost_more.mp (h ▸ keygen_usesAtMost kg draws)

/-- A command asks for more only on fewer draws than some bound (R47, R197, R232). -/
theorem instrResult_more_length (i : Instr) (r : Snapshot) :
    ∃ b, ∀ draws, instrResult i r draws = .more → draws.length < b := by
  by_cases hp : i = .isprime
  · subst hp
    exact ⟨_, fun draws h => isprime_more_length _ _ draws (isprimeResult_eq_more.mp h)⟩
  by_cases hk : i = .keygen
  · subst hk
    exact ⟨_, fun draws h => keygen_more_length (keygenResult_eq_more.mp h)⟩
  · obtain ⟨o, ho, -⟩ := instrResult_fin_of_no_draws hp hk r
    refine ⟨0, fun draws h => ?_⟩
    rw [instrResult_draws_irrelevant hp hk r draws [], ho] at h
    cases h

/-! ### Command words on a stream -/

theorem commandResult_append {c : Word} {r : Snapshot} {draws : List Word} (h : commandResult c r draws ≠ .more)
    (extra : List Word) : commandResult c r (draws ++ extra) = commandResult c r draws := by
  unfold commandResult at h ⊢
  cases hd : decode c with
  | ok i => rw [hd] at h; exact instrResult_append h extra
  | error e => rfl

theorem commandResult_more_length (c : Word) (r : Snapshot) :
    ∃ b, ∀ draws, commandResult c r draws = .more → draws.length < b := by
  unfold commandResult
  cases decode c with
  | ok i => exact instrResult_more_length i r
  | error e => exact ⟨0, fun _ h => by cases h⟩

@[simp] theorem drawPrefix_length (stream : Nat → Word) (k : Nat) : (drawPrefix stream k).length = k := by
  simp [drawPrefix]

/-- The first `n + k` draws of a stream are its first `n`, then the next `k`. -/
theorem drawPrefix_add (stream : Nat → Word) (n k : Nat) :
    drawPrefix stream (n + k) = drawPrefix stream n ++ drawPrefix (fun j => stream (n + j)) k := by
  simp [drawPrefix, List.range_add, Function.comp_def]

/-- Settles O53: the number is the first at which the command does not ask for more; there is one, since the
bound's number of draws is enough, and further draws keep the outcome. -/
theorem everyCommandFinishesOnEveryStream : Obligations.EveryCommandFinishesOnEveryStream := by
  intro c r stream
  obtain ⟨b, hb⟩ := commandResult_more_length c r
  have hex : ∃ n, commandResult c r (drawPrefix stream n) ≠ .more :=
    ⟨b, fun h => by simpa using hb _ h⟩
  cases ho : commandResult c r (drawPrefix stream (Nat.find hex)) with
  | more => exact absurd ho (Nat.find_spec hex)
  | fin o =>
    refine ⟨Nat.find hex, o, fun k hk => not_not.mp (Nat.find_min hex hk), fun k hk => ?_⟩
    obtain ⟨j, rfl⟩ := Nat.exists_eq_add_of_le hk
    rw [drawPrefix_add, commandResult_append (Nat.find_spec hex), ho]

end Sys2Proof.Machine
end

section
/-! The interrupt line (10_state.md R50; 60_exceptions.md R256). -/

namespace Sys2Proof.Machine

@[simp] theorem State.complete_irq (s : State) (o : CmdOutcome) : (s.complete o).irq = s.ie := by simp [State.irq]

@[simp] theorem State.accept_irq (s : State) (c : Word) : (s.accept c).irq = false := by simp [State.irq]

@[simp] theorem State.writeCtrl_irq (s : State) (v : Word) : (s.writeCtrl v).irq = (v.getLsbD 0 && s.done) := rfl

/-- Acknowledging DONE lowers the line (R256). -/
theorem State.clearStatus_irq {v : Word} (hv : v.getLsbD 1 = true) (s : State) : (s.clearStatus v).irq = false := by
  unfold State.irq
  rw [State.clearStatus_done, hv]
  simp

/-- Settles O21: a completion sets DONE, a write to CTRL sets IE, and the acknowledgement and an acceptance clear DONE. -/
theorem interruptLineIsEnableAndDone : Obligations.InterruptLineIsEnableAndDone := by
  refine ⟨fun _ => rfl, fun s ctx o reply rest hs hf hi => ⟨_, step_engine_of_fin hs hf hi, by simp⟩,
    fun s v rest => ⟨fun hi => ⟨_, step_host hi, ?_⟩, fun hi hv => ⟨_, step_host hi, ?_⟩,
      fun hi hidle => ⟨_, step_host hi, ?_⟩⟩⟩
  · rw [hostTxn_write_ctrl]
    exact ⟨State.writeCtrl_done _ v, State.writeCtrl_irq _ v⟩
  · rw [hostTxn_write_status]
    exact State.clearStatus_irq hv _
  · have hidle' : (s.startStep rest none).inFlight = none := hidle
    rw [hostTxn_write_cmd_of_idle hidle', State.accept_irq]

end Sys2Proof.Machine
end

section
/-! Host reads and writes slot by slot, and the engine's step by what the command in flight answers (20_memory.md R83 to
R90, R93, R94). -/

namespace Sys2Proof.Machine

/-! ### Host transactions by register -/

/-- A write to the slot of a register is dispatched by that register (R85). -/
theorem hostTxn_write_slot (s : State) (r : Reg) (v : Word) : s.hostTxn (.write r.slot v) = s.writeReg r v := by
  simp [State.hostTxn, State.memWrite]

/-- The guarded registers, slots 2, 4 to 6 and 14 to 17 (R88). -/
def guardedRegs : List Reg := [.cmd, .opa, .opb, .opn, .kgLo, .kgHi, .kgMin, .kgAttempts]

/-- A write to a guarded register while a command is in flight only sets OVR (R88). -/
theorem writeReg_guarded_of_busy {s : State} (hb : s.busy = true) {r : Reg} (hr : r ∈ guardedRegs) (v : Word) :
    s.writeReg r v = s.setOvr := by
  fin_cases hr <;> simp [State.writeReg, hb]

/-- The registers a host write does not reach, slots 3 and 7 to 13 (R90). -/
def readOnlyRegs : List Reg := [.errCode, .res0, .res1, .keyP, .keyQ, .keyE, .keyD, .keyN]

/-- A write to a read-only register is ignored in either phase (R90). -/
theorem writeReg_readOnly (s : State) {r : Reg} (hr : r ∈ readOnlyRegs) (v : Word) : s.writeReg r v = s := by
  fin_cases hr <;> rfl

/-- Slot 3 and slots 7 to 13 hold the read-only registers (R31). -/
theorem slotReg_readOnly : ∀ i : Slot, i.toNat = 3 ∨ (7 ≤ i.toNat ∧ i.toNat ≤ 13) →
    ∃ r ∈ readOnlyRegs, slotReg i = some r := by decide

/-- A write to a read-only or reserved slot is ignored (R90). -/
theorem hostTxn_write_ignored (s : State) {i : Slot} (hi : i.toNat = 3 ∨ (7 ≤ i.toNat ∧ i.toNat ≤ 13) ∨ 18 ≤ i.toNat)
    (v : Word) : s.hostTxn (.write i v) = s := by
  rw [← or_assoc] at hi
  rcases hi with hro | hreserved
  · obtain ⟨r, hr, hslot⟩ := slotReg_readOnly i hro
    rw [slotReg_eq_some i r hslot, hostTxn_write_slot, writeReg_readOnly s hr]
  · simp [State.hostTxn, State.memWrite, (slotReg_eq_none_iff i).mpr hreserved]

/-- The registers with a plain write (R89). -/
def plainRegs : List Reg := [.opa, .opb, .opn, .kgLo, .kgHi, .kgMin, .kgAttempts]

/-- A write to an operand or configuration register while idle is a plain write (R89). -/
theorem writeReg_plain_of_idle {s : State} (h : s.inFlight = none) {r : Reg} (hr : r ∈ plainRegs) (v : Word) :
    s.writeReg r v = s.plainWrite r v := by
  have hb : s.busy = false := by simp [State.busy, h]
  fin_cases hr <;> simp [State.writeReg, hb]

/-- A write to any register but STATUS leaves a set OVR set (R88). -/
theorem writeReg_ovr_of_ne_status {s : State} (ho : s.ovr = true) {r : Reg} (hr : r ≠ .status) (v : Word) :
    (s.writeReg r v).ovr = true := by
  cases r with
  | status => exact absurd rfl hr
  | cmd | opa | opb | opn | kgLo | kgHi | kgMin | kgAttempts => cases hb : s.busy <;> simp [State.writeReg, hb, ho]
  | _ => exact ho

/-- The one host transaction that clears OVR is a write of 1 to bit 3 of STATUS (R86, R88). -/
theorem hostTxn_clears_ovr {s : State} {txn : HostTxn} (ho : s.ovr = true) (h : (s.hostTxn txn).ovr = false) :
    ∃ v, v.getLsbD 3 = true ∧ txn = .write 1 v := by
  cases txn with
  | read i => exact absurd (ho.symm.trans h) (by decide)
  | write i v =>
    cases hslot : slotReg i with
    | none => simp [State.hostTxn, State.memWrite, hslot, ho] at h
    | some r =>
      obtain rfl := slotReg_eq_some i r hslot
      rw [hostTxn_write_slot] at h
      by_cases hr : r = .status
      · subst hr
        exact ⟨v, by simpa [State.writeReg, ho] using h, rfl⟩
      · simp [writeReg_ovr_of_ne_status ho hr] at h

/-! ### The engine's step -/

/-- The engine's step on an accepted word that decodes is exec of its command (R111). -/
theorem engineStep_of_decode {s : State} {ctx : InFlight} {i : Instr} (hs : s.inFlight = some ctx)
    (hd : decode ctx.word = .ok i) : engineStep s = exec i s := by
  simp [engineStep, hs, hd]

/-- The engine's step on a finished command is the completion (R94). -/
theorem engineStep_of_fin {s : State} {ctx : InFlight} {o : CmdOutcome} (hs : s.inFlight = some ctx)
    (hf : commandResult ctx.word ctx.regs ctx.draws = .fin o) : engineStep s = .next (s.complete o) :=
  (engineStep_eq hs).trans (engineTurn_fin hs hf)

/-- The engine's step on a command that asks for more takes the draw that is offered, if any (R93). -/
theorem engineStep_of_more {s : State} {ctx : InFlight} (hs : s.inFlight = some ctx)
    (hm : commandResult ctx.word ctx.regs ctx.draws = .more) : engineStep s = .next (s.takeDraw ctx) :=
  (engineStep_eq hs).trans (engineTurn_more hs hm)

/-- A reply on the RNG port is appended to the draws (R93). -/
theorem takeDraw_of_reply {s : State} {u : Word} (h : s.rngIn = some u) (ctx : InFlight) : s.takeDraw ctx =
    { s with rngIn := none, inFlight := some { ctx with draws := ctx.draws ++ [u] } } := by
  simp [State.takeDraw, h]

/-- The engine never writes OVR (R37, R88). -/
theorem engineStep_ovr {s t : State} (h : engineStep s = .next t) : t.ovr = s.ovr := by
  rcases engineStep_cases s with ⟨-, ht⟩ | ⟨ctx, -, -, ht⟩ | ⟨ctx, o, -, -, ht⟩ <;>
    obtain rfl := Host.Outcome.next.inj (ht.symm.trans h) <;> simp

/-! ### Both agents in one cycle -/

/-- A coincidence in which the host goes first is the transaction followed by the engine's step (R96). -/
theorem step_coincide_hostFirst {s : State} {txn : HostTxn} {reply : Option Word} {b : Bool} {rest : List Input}
    (hb : hostGoesFirst txn b = true) (hi : s.inputs = .coincide txn reply b :: rest) :
    step s = engineStep ((s.startStep rest reply).hostTxn txn) := by
  rw [step_of_inputs hi, inputStep, if_pos hb]

/-- A coincidence in which the engine goes first is its step followed by the transaction (R96). -/
theorem step_coincide_engineFirst {s u : State} {txn : HostTxn} {reply : Option Word} {b : Bool} {rest : List Input}
    (hb : hostGoesFirst txn b = false) (hi : s.inputs = .coincide txn reply b :: rest)
    (he : engineStep (s.startStep rest reply) = .next u) : step s = .next (u.hostTxn txn) := by
  rw [step_of_inputs hi, inputStep, hb, if_neg Bool.false_ne_true, he, thenHost]

end Sys2Proof.Machine
end

section
/-! Host reads and writes through the register space (20_memory.md R84 to R90, R97). -/

namespace Sys2Proof.Machine

/-- Settles O13: the read shows what the slot reads; slot by slot that is the register's value, and 0 for a slot without
one. -/
theorem hostReadReturnsTheSlot : Obligations.HostReadReturnsTheSlot := by
  intro s i rest hi
  have reads : ∀ r : Reg, i = r.slot → s.memRead i = s.readReg r := by
    rintro r rfl
    exact memRead_slot s r
  refine ⟨_, s.memRead i, step_host hi, rfl, rfl, fun h k => ?_, fun h k => ?_, reads .cmd, fun h => ?_, reads .opa,
    reads .opb, reads .opn, reads .res0, reads .res1, reads .keyP, reads .keyQ, reads .keyE, reads .keyD, reads .keyN,
    reads .kgLo, reads .kgHi, reads .kgMin, reads .kgAttempts, memRead_reserved s⟩
  · rw [reads .ctrl h]
    exact ctrlWord_getLsbD s k
  · rw [reads .status h]
    exact statusWord_getLsbD s k
  · rw [reads .errCode h]
    exact errCodeWord_toNat s

/-- Settles O14: CTRL takes bit 0; each of DONE, ERR and OVR is cleared where its bit is 1. -/
theorem controlAndStatusWrites : Obligations.ControlAndStatusWrites := by
  intro s v rest
  refine ⟨fun hi => ⟨_, step_host hi, rfl⟩, fun hi => ⟨_, step_host hi, ?_⟩⟩
  have clears : ∀ b flag : Bool, (if b then false else flag) = (flag && !b) := by decide
  simp only [clears]
  rfl

/-- Settles O15: the write is the acceptance step. -/
theorem commandWriteWhileIdleIsAccepted : Obligations.CommandWriteWhileIdleIsAccepted := by
  intro s c rest hs hi
  refine ⟨_, step_host hi, ?_⟩
  have hidle : (s.startStep rest none).inFlight = none := hs
  rw [hostTxn_write_cmd_of_idle hidle]
  rfl

/-- Settles O17: each of the seven registers has a plain write. -/
theorem plainWriteWhileIdleTakesEffect : Obligations.PlainWriteWhileIdleTakesEffect := by
  intro s i v rest hs hi
  have write : ∀ r ∈ plainRegs, i = r.slot → step s = .next ((s.startStep rest none).plainWrite r v) := by
    rintro r hr rfl
    have hidle : (s.startStep rest none).inFlight = none := hs
    rw [step_host hi, hostTxn_write_slot, writeReg_plain_of_idle hidle hr]
  exact ⟨fun h => ⟨_, write .opa (by decide) h, rfl⟩, fun h => ⟨_, write .opb (by decide) h, rfl⟩,
    fun h => ⟨_, write .opn (by decide) h, rfl⟩, fun h => ⟨_, write .kgLo (by decide) h, rfl⟩,
    fun h => ⟨_, write .kgHi (by decide) h, rfl⟩, fun h => ⟨_, write .kgMin (by decide) h, rfl⟩,
    fun h => ⟨_, write .kgAttempts (by decide) h, rfl⟩⟩

/-- Settles O18: the write leaves the state the step starts from. -/
theorem readOnlyAndReservedWritesAreIgnored : Obligations.ReadOnlyAndReservedWritesAreIgnored := by
  intro s i v rest hslot hi
  refine ⟨_, step_host hi, ?_⟩
  rw [hostTxn_write_ignored _ hslot]
  rfl

/-- The slots of R88's list are those of the guarded registers. -/
theorem slot_guarded : ∀ i : Slot,
    (i = 2 ∨ i = 4 ∨ i = 5 ∨ i = 6 ∨ i = 14 ∨ i = 15 ∨ i = 16 ∨ i = 17) → ∃ r ∈ guardedRegs, i = r.slot := by decide

/-- OVR falls only by a step with a write of 1 to bit 3 of STATUS, or by reset (R88). -/
theorem inputStep_clears_ovr {x : Input} {rest : List Input} {s t : State} (ho : s.ovr = true)
    (h : inputStep x rest s = .next t) (ht : t.ovr = false) :
    (∃ txn reply, x = .reset txn reply) ∨ ∃ v, v.getLsbD 3 = true ∧
      (x = .host (.write 1 v) ∨ ∃ reply b, x = .coincide (.write 1 v) reply b) := by
  rcases inputStep_cases h with ⟨txn, rfl, rfl⟩ | ⟨reply, rfl, he⟩ | ⟨txn, reply, b, rfl, -, he⟩ |
    ⟨txn, reply, b, u, rfl, he, rfl⟩ | ⟨txn, reply, hx, -⟩
  · have hstart : (s.startStep rest none).ovr = true := ho
    obtain ⟨v, hv, rfl⟩ := hostTxn_clears_ovr hstart ht
    exact .inr ⟨v, hv, .inl rfl⟩
  · rw [engineStep_ovr he] at ht
    exact absurd (ho.symm.trans ht) (by decide)
  · have hstart : (s.startStep rest reply).ovr = true := ho
    rw [engineStep_ovr he] at ht
    obtain ⟨v, hv, rfl⟩ := hostTxn_clears_ovr hstart ht
    exact .inr ⟨v, hv, .inr ⟨reply, b, rfl⟩⟩
  · obtain ⟨v, hv, rfl⟩ := hostTxn_clears_ovr ((engineStep_ovr he).trans ho) ht
    exact .inr ⟨v, hv, .inr ⟨reply, b, rfl⟩⟩
  · exact .inl ⟨txn, reply, hx⟩

/-- Settles O16: a guarded write while busy is `setOvr`; and OVR falls only by the inputs of `inputStep_clears_ovr`, of
which the quiet ports' engine turn is none. -/
theorem guardedWriteWhileBusyIsDropped : Obligations.GuardedWriteWhileBusyIsDropped := by
  refine ⟨fun s ctx i v rest hs hslot hi => ⟨_, step_host hi, ?_⟩, fun s t ho hst ht => ?_⟩
  · obtain ⟨r, hr, rfl⟩ := slot_guarded i hslot
    have hbusy : (s.startStep rest none).busy = true := by simp [State.busy, hs]
    rw [hostTxn_write_slot, writeReg_guarded_of_busy hbusy hr]
    rfl
  · obtain ⟨x, rest, hx, hinput⟩ := step_eq_inputStep s
    rcases hinput with hi | ⟨-, rfl⟩
    · rw [hi]
      rcases inputStep_clears_ovr ho (hx ▸ hst) ht with ⟨txn, reply, rfl⟩ | ⟨v, hv, rfl | ⟨reply, b, rfl⟩⟩
      · exact .inl ⟨txn, reply, rest, rfl⟩
      · exact .inr ⟨v, rest, hv, .inl rfl⟩
      · exact .inr ⟨v, rest, hv, .inr ⟨reply, b, rfl⟩⟩
    · rcases inputStep_clears_ovr ho (hx ▸ hst) ht with ⟨txn, reply, h⟩ | ⟨v, -, h | ⟨reply, b, h⟩⟩ <;> cases h

/-- While a command is in flight no list of transactions changes it, CMD, the values a command takes, or the key
registers (R97). -/
theorem hostRun_keeps_flight (txns : List HostTxn) : ∀ {s : State}, s.busy = true →
    (s.hostRun txns).inFlight = s.inFlight ∧ (s.hostRun txns).cmd = s.cmd ∧
    (s.hostRun txns).snapshot = s.snapshot ∧ (s.hostRun txns).keys = s.keys := by
  induction txns with
  | nil => exact fun _ => ⟨rfl, rfl, rfl, rfl⟩
  | cons txn txns ih =>
    intro s hb
    obtain ⟨hflight, hcmd, -, hsnap⟩ := hostTxn_keeps_flight txn s hb
    obtain ⟨-, -, hkeys, -, -, -⟩ := hostTxn_keeps txn s
    have hb' : (s.hostTxn txn).busy = true := by rwa [State.busy, hflight]
    obtain ⟨hflight', hcmd', hsnap', hkeys'⟩ := ih hb'
    exact ⟨hflight'.trans hflight, hcmd'.trans hcmd, hsnap'.trans hsnap, hkeys'.trans hkeys⟩

/-- Settles O19: the operand and configuration registers and KEYVALID are parts of the snapshot. -/
theorem hostCannotDisturbTheCommandInFlight : Obligations.HostCannotDisturbTheCommandInFlight := by
  intro s ctx txns hs
  have hb : s.busy = true := by simp [State.busy, hs]
  obtain ⟨hflight, hcmd, hsnap, hkeys⟩ := hostRun_keeps_flight txns hb
  exact ⟨hflight.trans hs, hcmd, congrArg Snapshot.opa hsnap, congrArg Snapshot.opb hsnap,
    congrArg Snapshot.opn hsnap, hkeys, congrArg Snapshot.keyValid hsnap, congrArg Snapshot.kg hsnap⟩

end Sys2Proof.Machine
end

section
/-! The engine's step: exec of the accepted word, draws, completion, and its order with the host's writes (20_memory.md
R92 to R96; 10_state.md R48). -/

namespace Sys2Proof.Machine

/-- A row's bits decode as the word they make (R118). -/
theorem decode_of_decodeTableWord {nbits w : Nat} {i : Instr} (h : decodeTableWord nbits w = some i) :
    decode (tableWord nbits w) = .ok i := by
  unfold decodeTableWord at h
  split at h
  · next heq => rw [heq, Option.some.inj h]
  · cases h

/-- Settles O6: each of the three steps is the engine's on a state whose command in flight decodes to `i`. -/
theorem stepRunsTheAcceptedCommand : Obligations.StepRunsTheAcceptedCommand := by
  refine ⟨fun s ctx i hs hd => ⟨fun hquiet => ?_, fun reply rest hi => ?_⟩, fun s nbits w i hw => ?_⟩
  · have hstart : s.startStep [] none = { s with rngIn := none, hostRead := none } := by
      rw [← hquiet]; rfl
    rw [step_of_quiet hquiet, hstart]
    exact engineStep_of_decode hs hd
  · exact (step_of_inputs hi).trans (engineStep_of_decode hs hd)
  · have hd := decode_of_decodeTableWord hw
    have hi : (s.withFetchWord nbits w).inputs = .engine none :: s.inputs := rfl
    have hs : ((s.withFetchWord nbits w).startStep s.inputs none).inFlight =
      some ⟨tableWord nbits w, s.snapshot, []⟩ := rfl
    exact (step_of_inputs hi).trans (engineStep_of_decode hs hd)

/-- Settles O22: without a request the block is idle or the command has finished, and neither case looks at the reply. -/
theorem unrequestedReplyIsNotTaken : Obligations.UnrequestedReplyIsNotTaken := by
  intro s u rest hreq
  have step_with : ∀ reply, step { s with inputs := .engine reply :: rest } = engineStep (s.startStep rest reply) :=
    fun _ => rfl
  rw [step_with, step_with]
  cases hs : s.inFlight with
  | none => exact ⟨_, _, engineStep_idle hs, engineStep_idle hs, rfl⟩
  | some ctx =>
    cases hr : commandResult ctx.word ctx.regs ctx.draws with
    | more => exact absurd ((rngReq_iff s).mpr ⟨ctx, hs, hr⟩) (by simp [hreq])
    | fin o => exact ⟨_, _, engineStep_of_fin hs hr, engineStep_of_fin hs hr, rfl⟩

/-- Settles O23: the engine's step on a command that asks for more, with a reply on the port. -/
theorem drawStepAppendsTheReply : Obligations.DrawStepAppendsTheReply := by
  intro s ctx u rest hs hm hi
  have hs' : (s.startStep rest (some u)).inFlight = some ctx := hs
  refine ⟨_, (step_of_inputs hi).trans (engineStep_of_more hs' hm), ?_⟩
  rw [takeDraw_of_reply (State.startStep_rngIn s rest (some u))]
  rfl

/-! ### Completion -/

/-- A command with a modulus succeeds or raises an error (R48). -/
theorem modularResult_success_or_error {f : Word → Word → Word → Word} {r : Snapshot} {o : CmdOutcome}
    (h : modularResult f r = .fin o) : (∃ a b, o = success a b) ∨ ∃ e, o = errorOutcome e := by
  unfold modularResult at h
  split at h <;> cases h
  · exact .inr ⟨_, rfl⟩
  · exact .inl ⟨_, _, rfl⟩

/-- A transformation with the stored key succeeds or raises an error (R48). -/
theorem storedKeyResult_success_or_error {exponent : Word} {r : Snapshot} {o : CmdOutcome}
    (h : storedKeyResult exponent r = .fin o) : (∃ a b, o = success a b) ∨ ∃ e, o = errorOutcome e := by
  unfold storedKeyResult at h
  split at h <;> cases h
  · exact .inl ⟨_, _, rfl⟩
  · exact .inr ⟨_, rfl⟩

/-- Every command but KEYGEN succeeds or raises an error, without a key (R48). -/
theorem instrResult_success_or_error {i : Instr} (hi : i ≠ .keygen) {r : Snapshot} {draws : List Word} {o : CmdOutcome}
    (h : instrResult i r draws = .fin o) : (∃ a b, o = success a b) ∨ ∃ e, o = errorOutcome e := by
  cases i with
  | div =>
    simp only [instrResult, divResult] at h
    split at h <;> cases h
    · exact .inr ⟨_, rfl⟩
    · exact .inl ⟨_, _, rfl⟩
  | modadd | modsub | modmul | modpow | xform =>
    simp only [instrResult, modaddResult, modsubResult, modmulResult, modpowResult, xformResult] at h
    exact modularResult_success_or_error h
  | modopInvalid fn => cases h; exact .inr ⟨_, rfl⟩
  | gcd => cases h; exact .inl ⟨_, _, rfl⟩
  | isprime =>
    simp only [instrResult, isprimeResult] at h
    split at h <;> cases h
    · exact .inr ⟨_, rfl⟩
    · exact .inl ⟨_, _, rfl⟩
  | modinv =>
    simp only [instrResult, modinvResult] at h
    split at h
    · cases h; exact .inr ⟨_, rfl⟩
    · split at h <;> cases h
      · exact .inr ⟨_, rfl⟩
      · exact .inl ⟨_, _, rfl⟩
  | keygen => exact absurd rfl hi
  | enc | dec => exact storedKeyResult_success_or_error h

/-- A KEYGEN in flight that has finished ends as KEYGEN does (R229, R230). -/
theorem commandResult_fin_keygen {c : Word} (hd : decode c = .ok .keygen) {r : Snapshot} {draws : List Word}
    {o : CmdOutcome} (h : commandResult c r draws = .fin o) : (∃ k, o = keygenSuccess k) ∨ ∃ e, o = keygenFailure e := by
  have hk : keygenResult r draws = .fin o := by simpa [commandResult, hd, instrResult] using h
  rcases keygenResult_fin hk with ⟨k, -, ho⟩ | hfail
  · exact .inl ⟨k, ho⟩
  · exact .inr hfail

/-- Any other word that has finished succeeds or raises an error, without a key; an illegal one raises one (R48, R116). -/
theorem commandResult_success_or_error {c : Word} (hd : decode c ≠ .ok .keygen) {r : Snapshot} {draws : List Word}
    {o : CmdOutcome} (h : commandResult c r draws = .fin o) : (∃ a b, o = success a b) ∨ ∃ e, o = errorOutcome e := by
  unfold commandResult at h
  cases hc : decode c with
  | ok i =>
    rw [hc] at h hd
    exact instrResult_success_or_error (fun hi => hd (hi ▸ rfl)) h
  | error e => rw [hc] at h; cases h; exact .inr ⟨_, rfl⟩

/-- Settles O25: the completion step writes the outcome; KEYGEN's always carries a key and any other's never does, and
the error outcomes have zero results. -/
theorem completionWritesTheOutcome : Obligations.CompletionWritesTheOutcome := by
  intro s ctx o reply rest hs hf hi
  have hst := step_engine_of_fin hs hf hi
  by_cases hd : decode ctx.word = .ok .keygen
  · rcases commandResult_fin_keygen hd hf with ⟨k, rfl⟩ | ⟨e, rfl⟩
    · exact ⟨nofun, fun _ => ⟨k, _, rfl, hst, rfl⟩, fun hne => absurd hd hne⟩
    · exact ⟨fun _ => ⟨rfl, rfl⟩, fun _ => ⟨KeyFile.zero, _, rfl, hst, rfl⟩, fun hne => absurd hd hne⟩
  · rcases commandResult_success_or_error hd hf with ⟨a, b, rfl⟩ | ⟨e, rfl⟩
    · exact ⟨nofun, fun hk => absurd hk hd, fun _ => ⟨rfl, _, hst, rfl⟩⟩
    · exact ⟨fun _ => ⟨rfl, rfl⟩, fun hk => absurd hk hd, fun _ => ⟨rfl, _, hst, rfl⟩⟩

/-- Settles O20: a write to STATUS goes before the completion of its cycle, and is the host's step followed by the
engine's; a write to CMD goes after it, onto an idle block, so it is the acceptance step. -/
theorem sameCycleOrderIsAsTheSpecPicks : Obligations.SameCycleOrderIsAsTheSpecPicks := by
  rintro s ctx o v reply hostFirst rest k kv hs hf rfl rfl
  refine ⟨fun hi => ?_, fun hi => ?_⟩
  · have hcleared : ((s.startStep rest reply).clearStatus v).inFlight = some ctx := hs
    have hst : step s = .next (((s.startStep rest reply).clearStatus v).complete o) :=
      (step_coincide_hostFirst rfl hi).trans (engineStep_of_fin hcleared hf)
    have hwritten : ((s.startStep (.engine reply :: rest) none).clearStatus v).inFlight = some ctx := hs
    exact ⟨_, _, _, hst, step_host rfl, step_engine_of_fin hwritten hf rfl, rfl, rfl⟩
  · have hst : step s = .next (((s.startStep rest reply).complete o).hostTxn (.write 2 v)) :=
      step_coincide_engineFirst rfl hi (engineStep_of_fin hs hf)
    exact ⟨_, _, _, hst, step_engine_of_fin hs hf rfl, step_host rfl, rfl, rfl⟩

end Sys2Proof.Machine
end

section
/-! Every accepted command reaches its completion step under the fairness assumptions (20_memory.md R99). -/

namespace Sys2Proof.Machine

/-- The input `x` moves the command in flight on: it answers the draw the command asks for, or gives the engine its turn
when the command has finished (R93, R94). -/
def InFlight.MovedBy (ctx : InFlight) (x : Input) : Prop :=
  (commandResult ctx.word ctx.regs ctx.draws = .more ∧ ∃ u, x.engineReply = some (some u)) ∨
  ∃ o, commandResult ctx.word ctx.regs ctx.draws = .fin o ∧ x.engineReply ≠ none

/-- The command in flight with the reply of the RNG port, if any, among its draws (R93). -/
def InFlight.withReply (ctx : InFlight) : Option Word → InFlight
  | some u => { ctx with draws := ctx.draws ++ [u] }
  | none => ctx

/-! ### One step -/

/-- A host transaction leaves the command in flight (R97). -/
theorem hostTxn_inFlight_of_some {s : State} {ctx : InFlight} (hs : s.inFlight = some ctx) (txn : HostTxn) :
    (s.hostTxn txn).inFlight = some ctx := by
  obtain ⟨hflight, -⟩ := hostTxn_keeps_flight txn s (by simp [State.busy, hs])
  exact hflight.trans hs

/-- The engine's step on a command that asks for more appends the reply that is offered, if any (R93). -/
theorem engineStep_inFlight_of_more {s t : State} {ctx : InFlight} (hs : s.inFlight = some ctx)
    (hm : commandResult ctx.word ctx.regs ctx.draws = .more) (h : engineStep s = .next t) :
    t.inFlight = some (ctx.withReply s.rngIn) := by
  obtain rfl := Host.Outcome.next.inj ((engineStep_of_more hs hm).symm.trans h)
  rcases takeDraw_cases s ctx with ⟨hnone, ht⟩ | ⟨u, hu, ht⟩ <;> rw [ht]
  · rw [hnone]; exact hs
  · rw [hu]; rfl

/-- An input with an engine turn appends its reply to the draws of a command that asks for more, whatever the host does in
the same cycle (R96, R97). -/
theorem inputStep_inFlight_of_more {x : Input} {rest : List Input} {s t : State} {ctx : InFlight} {reply : Option Word}
    (hs : s.inFlight = some ctx) (hm : commandResult ctx.word ctx.regs ctx.draws = .more)
    (hx : x.engineReply = some reply) (h : inputStep x rest s = .next t) :
    t.inFlight = some (ctx.withReply reply) := by
  have hstart : (s.startStep rest reply).inFlight = some ctx := hs
  rcases inputStep_cases h with ⟨txn, rfl, -⟩ | ⟨r, rfl, he⟩ | ⟨txn, r, b, rfl, -, he⟩ | ⟨txn, r, b, u, rfl, he, rfl⟩ |
    ⟨txn, r, rfl, -⟩
  · cases hx
  · cases hx
    exact engineStep_inFlight_of_more hstart hm he
  · cases hx
    have hport : ((s.startStep rest reply).hostTxn txn).rngIn = reply := by
      obtain ⟨-, -, -, -, -, hrng⟩ := hostTxn_keeps txn (s.startStep rest reply)
      exact hrng
    rw [engineStep_inFlight_of_more (hostTxn_inFlight_of_some hstart txn) hm he, hport]
  · cases hx
    exact hostTxn_inFlight_of_some (engineStep_inFlight_of_more hstart hm he) txn
  · cases hx

/-- An input that is no reset and does not move the command in flight leaves it as it is. -/
theorem inputStep_inFlight_of_not_moved {x : Input} {rest : List Input} {s t : State} {ctx : InFlight}
    (hs : s.inFlight = some ctx) (hreset : ∀ txn reply, x ≠ .reset txn reply) (hx : ¬ ctx.MovedBy x)
    (h : inputStep x rest s = .next t) : t.inFlight = some ctx := by
  cases hturn : x.engineReply with
  | none =>
    cases x with
    | host txn =>
      have hstart : (s.startStep rest none).inFlight = some ctx := hs
      obtain rfl := Host.Outcome.next.inj h
      exact hostTxn_inFlight_of_some hstart txn
    | reset txn reply => exact absurd rfl (hreset txn reply)
    | engine | coincide => cases hturn
  | some reply =>
    cases hr : commandResult ctx.word ctx.regs ctx.draws with
    | fin o => exact absurd (.inr ⟨o, hr, by simp [hturn]⟩) hx
    | more =>
      cases reply with
      | none => exact inputStep_inFlight_of_more hs hr hturn h
      | some u => exact absurd (.inl ⟨hr, u, hturn⟩) hx

/-! ### Endless runs -/

section
variable {env : Nat → Input} {trace : Nat → State} (hrun : EndlessRun env trace)
include hrun

/-- The command in flight stays as it is up to the first input that moves it. -/
theorem EndlessRun.exists_first_move {ctx : InFlight} (n : Nat) : ∀ {k : Nat}, (trace k).inFlight = some ctx →
    ctx.MovedBy (env (k + n)) → ∃ m, (trace m).inFlight = some ctx ∧ ctx.MovedBy (env m) := by
  induction n with
  | zero => exact fun hs hmoved => ⟨_, hs, hmoved⟩
  | succ n ih =>
    intro k hs hmoved
    by_cases hk : ctx.MovedBy (env k)
    · exact ⟨k, hs, hk⟩
    · obtain ⟨hreset, hstep⟩ := hrun k
      have hs' : (trace (k + 1)).inFlight = some ctx := inputStep_inFlight_of_not_moved hs hreset hk hstep
      exact ih hs' (by rwa [Nat.add_right_comm, Nat.add_assoc])

variable (hfair : EngineFair env trace) (hlive : CollaboratorLive env trace)
include hfair hlive

/-- R99: some input moves the command in flight: its draw request is answered, or its completion step is taken. -/
theorem EndlessRun.exists_move {k : Nat} {ctx : InFlight} (hs : (trace k).inFlight = some ctx) :
    ∃ m, (trace m).inFlight = some ctx ∧ ctx.MovedBy (env m) := by
  have hmove : ∃ m ≥ k, ctx.MovedBy (env m) := by
    cases hr : commandResult ctx.word ctx.regs ctx.draws with
    | more =>
      obtain ⟨m, hm, hreply⟩ := hlive k ((rngReq_iff _).mpr ⟨ctx, hs, hr⟩)
      exact ⟨m, hm, .inl ⟨hr, hreply⟩⟩
    | fin o =>
      obtain ⟨m, hm, hturn⟩ := hfair k (by simp [State.busy, hs]) (rngReq_of_fin hs hr)
      exact ⟨m, hm, .inr ⟨o, hr, hturn⟩⟩
  obtain ⟨m, hm, hmoved⟩ := hmove
  obtain ⟨n, rfl⟩ := Nat.exists_eq_add_of_le hm
  exact hrun.exists_first_move n hs hmoved

/-- A command that asks for more only on fewer than `b` draws reaches its completion step: each move but the completion
adds a draw, and at most `n` are missing up to `b`. -/
theorem EndlessRun.exists_completion {c : Word} {r : Snapshot} {b : Nat}
    (hb : ∀ draws, commandResult c r draws = .more → draws.length < b) (n : Nat) :
    ∀ {k : Nat} {draws : List Word}, (trace k).inFlight = some ⟨c, r, draws⟩ → b ≤ draws.length + n →
    ∃ (m : Nat) (draws' : List Word) (o : CmdOutcome), (trace m).inFlight = some ⟨c, r, draws'⟩ ∧
      commandResult c r draws' = .fin o ∧ (env m).engineReply ≠ none := by
  induction n with
  | zero =>
    intro k draws hs hn
    obtain ⟨m, hm, ⟨hmore, -⟩ | ⟨o, ho, hturn⟩⟩ := hrun.exists_move hfair hlive hs
    · exact absurd (hb draws hmore) (by omega)
    · exact ⟨m, draws, o, hm, ho, hturn⟩
  | succ n ih =>
    intro k draws hs hn
    obtain ⟨m, hm, ⟨hmore, u, hreply⟩ | ⟨o, ho, hturn⟩⟩ := hrun.exists_move hfair hlive hs
    · have hdrawn : (trace (m + 1)).inFlight = some ⟨c, r, draws ++ [u]⟩ :=
        inputStep_inFlight_of_more hm hmore hreply (hrun m).2
      exact ih hdrawn (by simp; omega)
    · exact ⟨m, draws, o, hm, ho, hturn⟩

end

/-- Settles O54: the draws a command can ask for are bounded (R197, R232), so after finitely many moves it has finished,
and its next move is the completion step. -/
theorem acceptedCommandsReachTheirCompletion : Obligations.AcceptedCommandsReachTheirCompletion := by
  intro env trace ctx hrun hfair hlive hs
  obtain ⟨b, hb⟩ := commandResult_more_length ctx.word ctx.regs
  exact hrun.exists_completion hfair hlive hb b hs (Nat.le_add_left b _)

end Sys2Proof.Machine
end

section
/-! The command word: its fields, the decoder against the encoder, and the case table (30_encoding.md R110, R111). -/

namespace Sys2Proof

/-! ### The fields of the word format -/

/-- A word with a zero reserved field is the format C word of its other two fields (R110). -/
theorem formatC_unitField_fnField {c : Word} (h : rsvField c = 0) : formatC (unitField c) (fnField c) = c := by
  calc formatC (unitField c) (fnField c) = rsvField c ++ unitField c ++ fnField c := by rw [h]; rfl
    _ = c.extractLsb' 0 32 := by
      simp only [rsvField, unitField, fnField]
      rw [BitVec.extractLsb'_append_extractLsb'_eq_extractLsb' (by rfl),
        BitVec.extractLsb'_append_extractLsb'_eq_extractLsb' (by rfl)]
    _ = c := BitVec.extractLsb'_eq_self

/-- The reserved field is zero exactly on the words below 256 (R110). -/
theorem rsvField_eq_zero_iff (c : Word) : rsvField c = 0 ↔ c.toNat < 256 := by
  rw [← BitVec.toNat_inj]
  simp [rsvField, Nat.shiftRight_eq_div_pow]
  omega

/-! ### Decoding and encoding -/

/-- The decoder answers a command exactly on a zero reserved field and a pair `UNIT`, `FN` that selects it (R111). -/
theorem decode_eq_ok_iff {c : Word} {i : Instr} : decode c = .ok i ↔
    rsvField c = 0 ∧ decodeOpcode (unitField c).toNat (fnField c).toNat = some i := by
  unfold decode
  by_cases hr : rsvField c = 0
  · rw [if_pos hr]
    cases decodeOpcode (unitField c).toNat (fnField c).toNat <;> simp [hr]
  · rw [if_neg hr]
    exact ⟨nofun, fun h => absurd h.1 hr⟩

/-- The name of ILLEGAL says whether the reserved field is zero (log entry 12). -/
theorem decode_eq_error {c : Word} {e : DecodeReject} (h : decode c = .error e) :
    e = if c.toNat < 256 then .noSuchOpcode else .reservedBits := by
  unfold decode at h
  split at h
  · next hr =>
    rw [if_pos ((rsvField_eq_zero_iff c).mp hr)]
    split at h <;> cases h
    rfl
  · next hr =>
    rw [if_neg (mt (rsvField_eq_zero_iff c).mpr hr)]
    cases h
    rfl

/-- A command that a pair `UNIT`, `FN` selects is well formed, and its word holds that pair (R112). -/
theorem wf_and_encode_of_decodeOpcode : ∀ unit fn : BitVec 4, ∀ i ∈ decodeOpcode unit.toNat fn.toNat,
    i.WellFormed ∧ encode i = formatC unit fn := by decide

/-- The word of a well-formed command decodes to it. -/
theorem decode_encode {i : Instr} (h : i.WellFormed) : decode (encode i) = .ok i := by
  cases i with
  | modopInvalid fn => revert fn; decide
  | _ => rfl

/-- Settles O4: an accepted word is the format C word of its fields, and these select the command; the other direction
is `decode_encode`. -/
theorem decodeAndEncodeAgree : Obligations.DecodeAndEncodeAgree := by
  intro c i
  constructor
  · intro h
    obtain ⟨hr, hop⟩ := decode_eq_ok_iff.mp h
    obtain ⟨hwf, henc⟩ := wf_and_encode_of_decodeOpcode _ _ i hop
    exact ⟨hwf, henc.trans (formatC_unitField_fnField hr)⟩
  · rintro ⟨hwf, rfl⟩
    exact decode_encode hwf

/-- Settles O1: the decoder evaluates on the seven words. -/
theorem commandWordsDecode : Obligations.CommandWordsDecode := ⟨rfl, rfl, rfl, rfl, rfl, rfl, rfl⟩

/-! ### The case table -/

/-- The case labels of R111 that select a command. -/
def IsOpcode (n : Nat) : Prop :=
  n = 0x10 ∨ (0x20 ≤ n ∧ n ≤ 0x30) ∨ n = 0x40 ∨ n = 0x50 ∨ n = 0x60 ∨ n = 0x70 ∨ n = 0x80 ∨ (0x90 ≤ n ∧ n ≤ 0x92)

/-- The word of a well-formed command is a case label (R111). -/
theorem isOpcode_encode {i : Instr} (h : i.WellFormed) : IsOpcode (encode i).toNat := by
  unfold IsOpcode
  cases i with
  | modopInvalid fn => revert fn; decide
  | _ => decide

/-- Every case label is accepted (R111). -/
theorem decode_isOk_of_isOpcode : ∀ n < 0x93, IsOpcode n → (decode (BitVec.ofNat 32 n)).isOk = true := by
  unfold IsOpcode; decide

/-- The words that decode to a command are the case labels (R111). -/
theorem exists_decode_ok_iff (c : Word) : (∃ i, decode c = .ok i) ↔ IsOpcode c.toNat := by
  constructor
  · rintro ⟨i, hi⟩
    obtain ⟨hwf, rfl⟩ := (decodeAndEncodeAgree c i).mp hi
    exact isOpcode_encode hwf
  · intro h
    have hlt : c.toNat < 0x93 := by unfold IsOpcode at h; omega
    have hok := decode_isOk_of_isOpcode c.toNat hlt h
    rw [BitVec.ofNat_toNat, BitVec.setWidth_eq] at hok
    cases hd : decode c with
    | ok i => exact ⟨i, rfl⟩
    | error e => rw [hd] at hok; cases hok

/-- The illegal space is every other word (R111, R115). -/
theorem exists_decode_error_iff (c : Word) : (∃ e, decode c = .error e) ↔ ¬ IsOpcode c.toNat := by
  rw [← exists_decode_ok_iff]
  cases decode c <;> simp

/-- Settles O2: an accepted word is its command's, on which the table evaluates; an illegal word is no case label, so the
table comes to its first or its last line. -/
theorem decodeIsTheCaseTable : Obligations.DecodeIsTheCaseTable := by
  intro c
  cases hd : decode c with
  | ok i =>
    obtain ⟨hwf, rfl⟩ := (decodeAndEncodeAgree c i).mp hd
    cases i with
    | modopInvalid fn => clear hd; revert fn; decide
    | _ => rfl
  | error e =>
    have hn : ¬ IsOpcode c.toNat := (exists_decode_error_iff c).mp ⟨e, hd⟩
    unfold IsOpcode at hn
    rw [decode_eq_error hd]
    by_cases hrsv : 256 ≤ c.toNat
    · rw [if_pos hrsv, if_neg (by omega)]
    · rw [if_neg hrsv, if_pos (by omega)]
      repeat rw [if_neg]
      all_goals omega

end Sys2Proof
end

section
/-! The rows of the opcode map (30_encoding.md R112): each selects an interval of words. -/

namespace Sys2Proof

/-- The smallest value of a word that the row selects. -/
def OpcodeRow.first (r : OpcodeRow) : Nat := r.pattern.toNat

/-- The largest value of a word that the row selects: the bits outside the mask are free. -/
def OpcodeRow.last (r : OpcodeRow) : Nat := r.pattern.toNat + (~~~ r.mask).toNat

/-- Clearing the low `k` bits of a word rounds its value down to a multiple of `2 ^ k`. -/
theorem toNat_and_allOnes_shiftLeft (c : Word) (k : Nat) :
    (c &&& BitVec.allOnes 32 <<< k).toNat = c.toNat / 2 ^ k * 2 ^ k := by
  have hlt : c.toNat / 2 ^ k * 2 ^ k < 2 ^ 32 := (Nat.div_mul_le_self _ _).trans_lt c.isLt
  rw [← BitVec.shiftLeft_ushiftRight, BitVec.toNat_shiftLeft, BitVec.toNat_ushiftRight, Nat.shiftLeft_eq,
    Nat.shiftRight_eq_div_pow, Nat.mod_eq_of_lt hlt]

/-- Every mask of the map clears fewer than four low bits, and the row's pattern has these bits zero (R112). -/
theorem mask_and_pattern_aligned : ∀ r ∈ opcodeTable, ∃ k < 4,
    r.mask = BitVec.allOnes 32 <<< k ∧ r.last = r.first + (2 ^ k - 1) ∧ r.first / 2 ^ k * 2 ^ k = r.first := by
  decide

/-- A row of the map selects the words from its first to its last (R112). -/
theorem selects_iff {r : OpcodeRow} (hr : r ∈ opcodeTable) (c : Word) :
    r.selects c = true ↔ r.first ≤ c.toNat ∧ c.toNat ≤ r.last := by
  obtain ⟨k, hk, hmask, hlast, hfirst⟩ := mask_and_pattern_aligned r hr
  have hvalue : r.selects c = true ↔ c.toNat / 2 ^ k * 2 ^ k = r.first := by
    rw [OpcodeRow.selects, beq_iff_eq, ← BitVec.toNat_inj, hmask, toNat_and_allOnes_shiftLeft, OpcodeRow.first]
  rw [hvalue, hlast]
  interval_cases k <;> omega

/-- No two rows' intervals meet (R112). -/
theorem rows_disjoint : ∀ r₁ ∈ opcodeTable, ∀ r₂ ∈ opcodeTable, r₁ ≠ r₂ →
    r₁.last < r₂.first ∨ r₂.last < r₁.first := by decide

/-- Every word of a row's interval is a case label of R111. -/
theorem isOpcode_of_row : ∀ r ∈ opcodeTable, ∀ d ≤ r.last - r.first, IsOpcode (r.first + d) := by
  unfold IsOpcode; decide

/-- The word of a well-formed command selects a row with its mnemonic (R112). -/
theorem exists_row_of_wf {i : Instr} (h : i.WellFormed) :
    ∃ r ∈ opcodeTable, r.selects (encode i) = true ∧ mnemonic i = r.mnemonic := by
  cases i with
  | modopInvalid fn => revert fn; decide
  | _ => decide

/-- A word selects at most one row (R112). -/
theorem selects_unique {r₁ r₂ : OpcodeRow} {c : Word} (h₁ : r₁ ∈ opcodeTable) (h₂ : r₂ ∈ opcodeTable)
    (hs₁ : r₁.selects c = true) (hs₂ : r₂.selects c = true) : r₁ = r₂ := by
  rw [selects_iff h₁] at hs₁
  rw [selects_iff h₂] at hs₂
  by_contra hne
  have hapart := rows_disjoint r₁ h₁ r₂ h₂ hne
  omega

/-- A word that decodes to a command selects a row with the command's mnemonic (R112). -/
theorem exists_row_of_decode_ok {c : Word} {i : Instr} (h : decode c = .ok i) :
    ∃ r ∈ opcodeTable, r.selects c = true ∧ mnemonic i = r.mnemonic := by
  obtain ⟨hwf, rfl⟩ := (decodeAndEncodeAgree c i).mp h
  exact exists_row_of_wf hwf

/-- A word that selects a row decodes to some command (R112). -/
theorem exists_decode_ok_of_selects {r : OpcodeRow} {c : Word} (hr : r ∈ opcodeTable) (hs : r.selects c = true) :
    ∃ i, decode c = .ok i := by
  obtain ⟨hfirst, hlast⟩ := (selects_iff hr c).mp hs
  have hrow := isOpcode_of_row r hr (c.toNat - r.first) (by omega)
  rw [Nat.add_sub_cancel' hfirst] at hrow
  exact (exists_decode_ok_iff c).mpr hrow

/-- Settles O3: a selecting word decodes to a command whose own row it selects too, and that row is the same one. -/
theorem opcodeRowsNameTheDecodedCommand : Obligations.OpcodeRowsNameTheDecodedCommand := by
  refine fun c => ⟨fun r₁ h₁ r₂ h₂ => selects_unique h₁ h₂, fun r hr hs => ?_, fun hnone => ?_⟩
  · obtain ⟨i, hi⟩ := exists_decode_ok_of_selects hr hs
    obtain ⟨r', hr', hs', hname⟩ := exists_row_of_decode_ok hi
    exact ⟨i, hi, selects_unique hr hr' hs hs' ▸ hname⟩
  · cases hd : decode c with
    | ok i =>
      obtain ⟨r, hr, hs, -⟩ := exists_row_of_decode_ok hd
      exact absurd hs (by simp [hnone r hr])
    | error e => exact ⟨e, rfl⟩

end Sys2Proof
end

section
/-! ILLEGAL (30_encoding.md R115, R116). -/

namespace Sys2Proof.Machine

/-- An illegal word finishes with ILLEGAL's error on any register values and draws (R116). -/
theorem commandResult_illegal {c : Word} {e : DecodeReject} (h : decode c = .error e) (r : Snapshot)
    (draws : List Word) : commandResult c r draws = .fin (errorOutcome .illegalCommand) := by
  simp [commandResult, h, illegalResult]

/-- Settles O5: the ranges of R115 are the gaps between the case labels, and an illegal word in flight has finished. -/
theorem illegalWordEndsWithCodeSix : Obligations.IllegalWordEndsWithCodeSix := by
  refine ⟨fun c => ?_, fun s ctx e reply rest hs hd hi => ?_⟩
  · rw [exists_decode_error_iff]
    unfold IsOpcode
    omega
  · exact ⟨_, step_engine_of_fin hs (commandResult_illegal hd _ _) hi, rfl⟩

end Sys2Proof.Machine
end

section
/-! Pseudo-instructions (30_encoding.md R122, R123): the host's writes, the draws and the completion. -/

namespace Sys2Proof.Machine

/-! ### The command of a pseudo-instruction -/

/-- The word a pseudo-instruction writes to CMD executes as its command (R111, R123). -/
theorem commandResult_pseudo (x : Pseudo) (r : Snapshot) (draws : List Word) :
    commandResult (encode x.instr) r draws = instrResult x.instr r draws := by
  simp [commandResult, decode_encode_pseudo]

/-- Only the pseudo-instruction ISPRIME issues an ISPRIME (R123). -/
theorem instr_ne_isprime {x : Pseudo} (h : ∀ c r, x ≠ .isprime c r) : x.instr ≠ .isprime := by
  cases x with
  | isprime c r => exact absurd rfl (h c r)
  | modop k a b n => simp only [Pseudo.instr]; split_ifs <;> simp
  | _ => simp [Pseudo.instr]

/-- Only the pseudo-instruction KEYGEN issues a KEYGEN (R123). -/
theorem instr_ne_keygen {x : Pseudo} (h : x ≠ .keygen) : x.instr ≠ .keygen := by
  cases x with
  | keygen => exact absurd rfl h
  | modop k a b n => simp only [Pseudo.instr]; split_ifs <;> simp
  | _ => simp [Pseudo.instr]

@[simp] theorem toWord_toNat (w : Word) : toWord w.toNat = w := by simp [toWord]

/-- DIV with a non-zero modulus finishes with the quotient and the remainder (40_divide.md R140, R141). -/
theorem divResult_of_ne_zero {r : Snapshot} (h : r.opn ≠ 0) (draws : List Word) :
    divResult r draws = .fin (success (r.opa / r.opn) (r.opa % r.opn)) := by
  simp only [divResult, if_neg h, divide, ← BitVec.toNat_udiv, ← BitVec.toNat_umod, toWord_toNat]

/-! ### Steps and runs -/

/-- `WAIT` may stop on an idle block (R122). -/
theorem waitDone_of_idle {s : State} (h : s.inFlight = none) : s.waitDone = true := by
  have hread : s.memRead Reg.status.slot = s.statusWord := memRead_slot s .status
  rw [State.waitDone, hread, statusWord_busy, State.busy, h]
  rfl

/-- With quiet ports a finished command takes its completion step (20_memory.md R94, R99). -/
theorem step_quiet_of_fin {s : State} {ctx : InFlight} {o : CmdOutcome} (hs : s.inFlight = some ctx)
    (hf : commandResult ctx.word ctx.regs ctx.draws = .fin o) (hi : s.inputs = []) :
    step s = .next ((s.startStep [] none).complete o) :=
  (step_of_quiet hi).trans (engineStep_of_fin hs hf)

/-- The engine's turn on a command that asks for more, with a reply on the port, is the draw step (R93). -/
theorem step_engine_of_more {s : State} {ctx : InFlight} {u : Word} {rest : List Input} (hs : s.inFlight = some ctx)
    (hm : commandResult ctx.word ctx.regs ctx.draws = .more) (hi : s.inputs = .engine (some u) :: rest) :
    step s = .next { s.startStep rest none with inFlight := some { ctx with draws := ctx.draws ++ [u] } } := by
  have hs' : (s.startStep rest (some u)).inFlight = some ctx := hs
  rw [step_of_inputs hi, inputStep, engineStep_of_more hs' hm, takeDraw_of_reply (State.startStep_rngIn ..)]
  rfl

/-- The engine's turns with these replies on the RNG port, one each, and one turn more. -/
def turnsWithReplies (us : List Word) : List Input := us.map (fun u => .engine (some u)) ++ [.engine none]

/-- While the command in flight asks for more, the engine's turns take the replies as draws; when it has finished on all
of them, the last turn completes it (R93, R94). -/
theorem run_turnsWithReplies {c : Word} {r : Snapshot} {o : CmdOutcome} (us : List Word) :
    ∀ {s : State} {draws : List Word}, s.inFlight = some ⟨c, r, draws⟩ → s.inputs = turnsWithReplies us →
    (∀ k < us.length, commandResult c r (draws ++ us.take k) = .more) → commandResult c r (draws ++ us) = .fin o →
    ∃ t, State.run (us.length + 1) s = .next t ∧ t.block = (s.complete o).block := by
  induction us with
  | nil =>
    intro s draws hs hi _ hf
    rw [List.append_nil] at hf
    exact ⟨_, run_succ 0 (step_engine_of_fin hs hf hi), rfl⟩
  | cons u us ih =>
    intro s draws hs hi hmore hf
    have hm : commandResult c r draws = .more := by simpa using hmore 0 (by simp)
    have hmore' : ∀ k < us.length, commandResult c r (draws ++ [u] ++ us.take k) = .more :=
      fun k hk => by simpa using hmore (k + 1) (by simpa using hk)
    rw [List.append_cons] at hf
    rw [List.length_cons, run_succ _ (step_engine_of_more (rest := turnsWithReplies us) hs hm hi)]
    exact ih rfl rfl hmore' hf

theorem drawPrefix_take (stream : Nat → Word) {k n : Nat} (h : k ≤ n) :
    (drawPrefix stream n).take k = drawPrefix stream k := by
  simp [drawPrefix, ← List.map_take, List.take_range, h]

/-- A word accepted by an idle block, `c`, that asks for `n` draws of the stream is completed by the engine's turns with
these draws and one turn more (R87, R93, R94). -/
theorem run_accept_stream {c : Word} {s : State} {stream : Nat → Word} {n : Nat} {o : CmdOutcome}
    (hmore : ∀ k < n, commandResult c s.snapshot (drawPrefix stream k) = .more)
    (hfin : commandResult c s.snapshot (drawPrefix stream n) = .fin o) :
    ∃ t, State.run (n + 1) { s.accept c with inputs := turnsWithReplies (drawPrefix stream n) } = .next t ∧
      t.block = ((s.accept c).complete o).block := by
  have hmore' : ∀ k < (drawPrefix stream n).length,
      commandResult c s.snapshot ([] ++ (drawPrefix stream n).take k) = .more := by
    intro k hk
    rw [drawPrefix_length] at hk
    rw [List.nil_append, drawPrefix_take stream hk.le, hmore k hk]
  obtain ⟨t, hrun, hblock⟩ := run_turnsWithReplies (drawPrefix stream n)
    (s := { s.accept c with inputs := turnsWithReplies (drawPrefix stream n) }) rfl rfl hmore' hfin
  rw [drawPrefix_length] at hrun
  exact ⟨t, hrun, hblock⟩

/-- Settles O55: the host's writes are the operands and the acceptance; the number of draws is the one at which the
command finishes on the stream, and 0 where it asks for none. -/
theorem pseudoInstructionLeavesTheBlockIdle : Obligations.PseudoInstructionLeavesTheBlockIdle := by
  refine ⟨fun s x hs hprime hkey => ?_, fun s x stream hs => ?_⟩
  · obtain ⟨o, ho, -⟩ := instrResult_fin_of_no_draws (instr_ne_isprime hprime) (instr_ne_keygen hkey)
      (x.operands s).snapshot
    have hf : commandResult (encode x.instr) (x.operands s).snapshot [] = .fin o :=
      (commandResult_pseudo ..).trans ho
    obtain ⟨-, -, -, -, hovr, -⟩ := operands_frame x s
    rw [hostRun_transactions x hs]
    refine ⟨_, step_quiet_of_fin rfl hf rfl, waitDone_of_idle rfl, rfl, hovr, ?_⟩
    rintro a n rfl hn
    obtain rfl := ExecResult.fin.inj (ho.symm.trans (divResult_of_ne_zero hn []))
    exact ⟨rfl, rfl, rfl⟩
  · obtain ⟨n, o, hmore, hfin⟩ := everyCommandFinishesOnEveryStream (encode x.instr) (x.operands s).snapshot stream
    obtain ⟨t, hrun, hblock⟩ := run_accept_stream hmore (hfin n le_rfl)
    have hidle : t.inFlight = none := congrArg State.inFlight hblock
    obtain ⟨hkeys, hvalid, -, -, -, hflight⟩ := operands_frame x s
    simp only [commandResult_pseudo] at hmore hfin
    rw [hostRun_transactions x hs]
    refine ⟨n, o, t, hmore, hfin n le_rfl, hrun, waitDone_of_idle hidle, hblock.trans ?_⟩
    simp [State.block, State.complete, State.accept, hkeys, hvalid, hflight, hs]

end Sys2Proof.Machine
end

section
/-! DIV (40_divide.md R140, R141): the quotient and the remainder, or code 2 for a zero modulus. -/

namespace Sys2Proof.Machine

/-- The engine's turn on a command that has finished is its completion (20_memory.md R94). -/
theorem exec_of_fin {i : Instr} {s : State} {ctx : InFlight} {o : CmdOutcome} (hs : s.inFlight = some ctx)
    (hf : instrResult i ctx.regs ctx.draws = .fin o) : exec i s = .next (s.complete o) :=
  (exec_eq_engineTurn i s).trans (engineTurn_fin hs hf)

/-- DIV with a zero modulus ends with code 2, whatever `OPA` is (R141). -/
theorem divResult_of_eq_zero {r : Snapshot} (h : r.opn = 0) (draws : List Word) :
    divResult r draws = .fin (errorOutcome .divisionByZero) := if_pos h

/-- Settles O26: DIV has finished at once, with code 2 or with the quotient and the remainder of the words, whose values
are the quotient and the remainder over the naturals. -/
theorem divAnswersQuotientAndRemainder : Obligations.DivAnswersQuotientAndRemainder := by
  refine ⟨decode_encode (i := .div) rfl, fun s ctx hs => ⟨fun hzero => ?_, fun hn => ?_⟩⟩
  · exact exec_of_fin (i := .div) hs (divResult_of_eq_zero hzero ctx.draws)
  · have hexec := exec_of_fin (i := .div) hs (divResult_of_ne_zero hn ctx.draws)
    refine ⟨ctx.regs.opa / ctx.regs.opn, ctx.regs.opa % ctx.regs.opn, hexec, BitVec.toNat_udiv, ?_, ?_⟩
    · exact BitVec.umod_lt _ ((BitVec.pos_iff_ne_zero _).mpr hn)
    · rw [BitVec.toNat_udiv, BitVec.toNat_umod, Nat.div_add_mod']

end Sys2Proof.Machine
end

section
/-! The divider by successive subtraction in Words (40_divide.md R142). -/

namespace Sys2Proof.Machine.Reference

/-- One subtraction lowers the quotient by one, and the count of R142 does not wrap. -/
theorem div_eq_sub_div_add_one {n r : Word} (hn : n ≠ 0) (hle : n ≤ r) : r / n = (r - n) / n + 1 := by
  have hstep : r.toNat / n.toNat = (r.toNat - n.toNat) / n.toNat + 1 :=
    Nat.div_eq_sub_div (BitVec.toNat_pos_of_ne_zero hn) (BitVec.le_def.mp hle)
  have hfits : r.toNat / n.toNat < 2 ^ 32 := (Nat.div_le_self _ _).trans_lt r.isLt
  apply BitVec.eq_of_toNat_eq
  rw [BitVec.toNat_add, BitVec.toNat_udiv, BitVec.toNat_udiv, BitVec.toNat_sub_of_le hle]
  exact hstep.trans (Nat.mod_eq_of_lt (hstep ▸ hfits)).symm

/-- One subtraction leaves the remainder (R142). -/
theorem mod_eq_sub_mod {n r : Word} (hle : n ≤ r) : r % n = (r - n) % n := by
  apply BitVec.eq_of_toNat_eq
  rw [BitVec.toNat_umod, BitVec.toNat_umod, BitVec.toNat_sub_of_le hle]
  exact Nat.mod_eq_sub_mod (BitVec.le_def.mp hle)

/-- With passes enough for `r`, the loop of R142 counts the quotient of `r` on top of `q` and stops at its remainder. -/
theorem subtractLoop_eq {n : Word} (hn : n ≠ 0) (k : Nat) :
    ∀ q r : Word, r.toNat ≤ k → subtractLoop n k q r = (q + r / n, r % n) := by
  induction k with
  | zero =>
    intro q r hk
    obtain rfl : r = 0 := BitVec.eq_of_toNat_eq (Nat.le_zero.mp hk)
    simp [subtractLoop]
  | succ k ih =>
    intro q r hk
    rw [subtractLoop]
    split_ifs with hle
    · have hpos : 0 < n.toNat := BitVec.toNat_pos_of_ne_zero hn
      have hk' : (r - n).toNat ≤ k := by rw [BitVec.toNat_sub_of_le hle]; omega
      rw [ih _ _ hk', div_eq_sub_div_add_one hn hle, mod_eq_sub_mod hle, add_assoc, add_comm 1]
    · have hlt : r < n := BitVec.not_le.mp hle
      simp [BitVec.udiv_eq_zero_iff_eq_zero_or_lt.mpr (.inr hlt), BitVec.umod_eq_of_lt hlt]

/-- The divider of R142 returns the quotient and the remainder of the words. -/
theorem divide_eq (a : Word) {n : Word} (hn : n ≠ 0) : divide a n = (a / n, a % n) := by
  rw [divide, subtractLoop_eq hn _ _ _ le_rfl, zero_add]

/-- Settles O56: the values of the quotient and the remainder of words are those over the naturals. -/
theorem successiveSubtractionDivides : Obligations.SuccessiveSubtractionDivides := by
  intro a n hn
  rw [divide_eq a hn]
  exact ⟨BitVec.toNat_udiv, BitVec.toNat_umod⟩

end Sys2Proof.Machine.Reference
end

section
/-! MODADD, MODSUB and MODMUL (41_modular_arithmetic.md R150 to R159): one result modulo OPN, or code 2 for a zero
modulus. -/

namespace Sys2Proof.Machine

/-- A modular command has finished at once: with code 2 for a zero modulus (60_exceptions.md R252), else with its one
result, and nothing but the outcome and the flight is changed. -/
theorem exec_of_modularResult {i : Instr} {f : Word → Word → Word → Word} {s : State} {ctx : InFlight}
    (hs : s.inFlight = some ctx) (hf : instrResult i ctx.regs ctx.draws = modularResult f ctx.regs) :
    (ctx.regs.opn = 0 → exec i s = .next { s with
      inFlight := none, done := true, err := true, errCode := 2, res0 := 0, res1 := 0 }) ∧
    (ctx.regs.opn ≠ 0 → exec i s = .next { s with
      inFlight := none, done := true, err := false, errCode := 0,
      res0 := f ctx.regs.opa ctx.regs.opb ctx.regs.opn, res1 := 0 }) :=
  ⟨fun hzero => exec_of_fin hs (hf.trans (if_pos hzero)), fun hn => exec_of_fin hs (hf.trans (if_neg hn))⟩

/-- A modular command whose result is a residue over the naturals answers it as a Word, with nothing lost (R9). -/
theorem exec_of_residue {i : Instr} {g : Nat → Nat → Nat → Nat} (hg : ∀ a b n, 0 < n → g a b n < n) {s : State}
    {ctx : InFlight} (hs : s.inFlight = some ctx) (hf : instrResult i ctx.regs ctx.draws =
      modularResult (fun a b n => toWord (g a.toNat b.toNat n.toNat)) ctx.regs) :
    (ctx.regs.opn = 0 → exec i s = .next { s with
      inFlight := none, done := true, err := true, errCode := 2, res0 := 0, res1 := 0 }) ∧
    (ctx.regs.opn ≠ 0 → ∃ r : Word, exec i s = .next { s with
        inFlight := none, done := true, err := false, errCode := 0, res0 := r, res1 := 0 } ∧
      r.toNat = g ctx.regs.opa.toNat ctx.regs.opb.toNat ctx.regs.opn.toNat) := by
  obtain ⟨hzero, hresult⟩ := exec_of_modularResult hs hf
  refine ⟨hzero, fun hn => ⟨_, hresult hn, toNat_toWord _ ?_⟩⟩
  exact (hg _ _ _ (BitVec.toNat_pos_of_ne_zero hn)).trans ctx.regs.opn.isLt

/-- Settles O27: the reduced sum is a residue. -/
theorem modaddAnswersTheSumModuloN : Obligations.ModaddAnswersTheSumModuloN :=
  ⟨decode_encode (i := .modadd) rfl, fun _ _ hs => exec_of_residue (i := .modadd) addmod_lt hs rfl⟩

/-- Settles O30: the reduced product is a residue. -/
theorem modmulAnswersTheProductModuloN : Obligations.ModmulAnswersTheProductModuloN :=
  ⟨decode_encode (i := .modmul) rfl, fun _ _ hs => exec_of_residue (i := .modmul) mulmod_lt hs rfl⟩

/-- R153: at most one residue added to `b` gives `a` modulo `n`. -/
theorem residue_eq_of_add_mod_eq {r r' a b n : Nat} (hr : r < n) (hr' : r' < n) (h : (r + b) % n = a % n)
    (h' : (r' + b) % n = a % n) : r' = r :=
  Nat.ModEq.eq_of_lt_of_lt (Nat.ModEq.add_right_cancel' b (h'.trans h.symm)) hr' hr

/-- Settles O28: the difference is a residue that added to `b` gives `a`, and there is no other. -/
theorem modsubAnswersTheDifferenceModuloN : Obligations.ModsubAnswersTheDifferenceModuloN := by
  refine ⟨decode_encode (i := .modsub) rfl, fun s ctx hs => ?_⟩
  obtain ⟨hzero, hresult⟩ := exec_of_residue (i := .modsub) submod_lt hs rfl
  refine ⟨hzero, fun hn => ?_⟩
  obtain ⟨r, hexec, hr⟩ := hresult hn
  have hpos : 0 < ctx.regs.opn.toNat := BitVec.toNat_pos_of_ne_zero hn
  have hlt : r.toNat < ctx.regs.opn.toNat := hr ▸ submod_lt _ _ _ hpos
  have hsum : r.toNat + ctx.regs.opb.toNat ≡ ctx.regs.opa.toNat [MOD ctx.regs.opn.toNat] :=
    hr ▸ submod_add_modEq _ _ _ hpos
  exact ⟨r, hexec, hlt, hsum, fun r' hr' h' => residue_eq_of_add_mod_eq hlt hr' hsum h'⟩

end Sys2Proof.Machine
end

section
/-! MODOP.INVALID (41_modular_arithmetic.md R156): the operator is examined before the modulus. -/

namespace Sys2Proof.Machine

/-- The word of an operator field is `0x20` and the field (30_encoding.md R112). -/
theorem encode_modopInvalid : ∀ fn : BitVec 4, encode (.modopInvalid fn) = BitVec.ofNat 32 (0x20 + fn.toNat) := by
  decide

/-- Settles O29: the word is the one that encodes the command, which has finished with code 1 on any register values. -/
theorem unsupportedOperatorEndsWithCodeOne : Obligations.UnsupportedOperatorEndsWithCodeOne := by
  refine fun fn hfn => ⟨?_, fun s ctx hs => exec_of_fin (i := .modopInvalid fn) hs rfl⟩
  have hwf : (Instr.modopInvalid fn).WellFormed := decide_eq_true hfn
  rw [← encode_modopInvalid]
  exact decode_encode hwf

end Sys2Proof.Machine
end

section
/-! The adder, the subtractor and the multiplier in wrapping Words (41_modular_arithmetic.md R151, R154, R158). -/

namespace Sys2Proof.Machine.Reference

/-! ### The adder -/

/-- The strict overflow test of 90_conflicts.md C1: it is true exactly where the sum is no Word. -/
theorem maxW_sub_lt_iff (a b : Word) : maxW - b < a ↔ 2 ^ 32 ≤ a.toNat + b.toNat := by
  have hle : b ≤ maxW := BitVec.le_def.mpr (Nat.le_of_lt_succ b.isLt)
  rw [BitVec.lt_def, BitVec.toNat_sub_of_le hle, show maxW.toNat = 2 ^ 32 - 1 from rfl]
  omega

/-- Where the sum of two residues is no Word, the modulus is above half the range, so `MAX mod n` is `MAX - n`, and the
corrected sum of R151 is the true sum less the modulus. -/
theorem toNat_corrected_sum {a b n : Word} (ha : a < n) (hb : b < n) (h : 2 ^ 32 ≤ a.toNat + b.toNat) :
    (maxW % n + 1 + (a + b) % n).toNat = a.toNat + b.toNat - n.toNat := by
  rw [BitVec.lt_def] at ha hb
  have hn := n.isLt
  have hmax : (maxW % n).toNat = 2 ^ 32 - 1 - n.toNat := by
    have hlt : 2 ^ 32 - 1 - n.toNat < n.toNat := by omega
    rw [BitVec.toNat_umod, show maxW.toNat = 2 ^ 32 - 1 from rfl, Nat.mod_eq_sub_mod (by omega),
      Nat.mod_eq_of_lt hlt]
  have hsum : (a + b).toNat = a.toNat + b.toNat - 2 ^ 32 := by
    rw [BitVec.toNat_add]
    omega
  have hmod : ((a + b) % n).toNat = a.toNat + b.toNat - 2 ^ 32 := by
    rw [BitVec.toNat_umod, hsum, Nat.mod_eq_of_lt (by omega)]
  rw [BitVec.toNat_add, BitVec.toNat_add, hmax, hmod, show (1 : Word).toNat = 1 from rfl]
  omega

/-- The adder of R151 on residues returns the reduced sum over the naturals. -/
theorem toNat_addReduced {a b n : Word} (ha : a < n) (hb : b < n) :
    (addReduced a b n).toNat = (a.toNat + b.toNat) % n.toNat := by
  unfold addReduced
  split_ifs with hover
  · have hsum : 2 ^ 32 ≤ a.toNat + b.toNat := (maxW_sub_lt_iff a b).mp hover
    rw [BitVec.toNat_umod, toNat_corrected_sum ha hb hsum, ← Nat.mod_eq_sub_mod (n.isLt.le.trans hsum)]
  · have hsum : a.toNat + b.toNat < 2 ^ 32 := not_le.mp (mt (maxW_sub_lt_iff a b).mpr hover)
    rw [BitVec.toNat_umod, BitVec.toNat_add, Nat.mod_eq_of_lt hsum]

/-- The adder in Words returns the value of R150. -/
theorem toNat_addmod (a b : Word) {n : Word} (hn : n ≠ 0) :
    (addmod a b n).toNat = Machine.addmod a.toNat b.toNat n.toNat := by
  have hpos : 0 < n := (BitVec.pos_iff_ne_zero n).mpr hn
  rw [addmod, toNat_addReduced (BitVec.umod_lt a hpos) (BitVec.umod_lt b hpos), BitVec.toNat_umod,
    BitVec.toNat_umod, ← Nat.add_mod, Machine.addmod]

/-! ### The subtractor -/

/-- The wrapped difference that R154 takes from the modulus is the negated difference. -/
theorem maxW_sub_add_one (d : Word) : maxW - d + 1 = -d := by
  rw [show maxW = -1 from rfl]
  ring

/-- The subtractor in Words returns the value of R153. -/
theorem toNat_submod (a b : Word) {n : Word} (hn : n ≠ 0) :
    (submod a b n).toNat = Machine.submod a.toNat b.toNat n.toNat := by
  have hpos : 0 < n := (BitVec.pos_iff_ne_zero n).mpr hn
  have hb : (b % n).toNat < n.toNat := BitVec.umod_lt b hpos
  rw [submod, Machine.submod, ← BitVec.toNat_umod, ← BitVec.toNat_umod, maxW_sub_add_one]
  split_ifs with hlt
  · have hlt' : (a % n).toNat < (b % n).toNat := hlt
    have hres : (a % n).toNat + n.toNat - (b % n).toNat < n.toNat := by omega
    rw [Nat.mod_eq_of_lt hres, sub_neg_eq_add, BitVec.toNat_add, BitVec.toNat_sub]
    omega
  · have hle : b % n ≤ a % n := BitVec.not_lt.mp hlt
    rw [BitVec.toNat_umod, BitVec.toNat_sub_of_le hle, Nat.sub_add_comm (BitVec.le_def.mp hle), Nat.add_mod_right]

/-! ### The multiplier -/

/-- Doubling: the residue of `x * 2 ^ i` from that of one bit lower; at bit 0 nothing is doubled (R158). -/
theorem toNat_double {n t : Word} (hn : n ≠ 0) {x i : Nat} (ht : t.toNat = x * 2 ^ (i - 1) % n.toNat) :
    (if i = 0 then t else addmod t t n).toNat = x * 2 ^ i % n.toNat := by
  cases i with
  | zero => exact ht
  | succ i =>
    rw [if_neg i.succ_ne_zero, toNat_addmod t t hn, Machine.addmod, ht, Nat.add_sub_cancel, ← Nat.add_mod,
      ← mul_two, mul_assoc, ← pow_succ]

/-- Adding: where bit `i` of `y` is set, the residue of `x * 2 ^ i` joins that of `x` times the bits below (R158). -/
theorem toNat_add_at_bit {n y t acc : Word} (hn : n ≠ 0) {x i : Nat} (ht : t.toNat = x * 2 ^ i % n.toNat)
    (hacc : acc.toNat = x * (y.toNat % 2 ^ i) % n.toNat) :
    (if y.getLsbD i then addmod acc t n else acc).toNat = x * (y.toNat % 2 ^ (i + 1)) % n.toNat := by
  rw [Nat.mod_pow_succ, ← Nat.toNat_testBit, BitVec.testBit_toNat]
  cases y.getLsbD i with
  | false => simpa using hacc
  | true => simp [toNat_addmod acc t hn, Machine.addmod, hacc, ht, mul_add]

/-- The invariant of R158: before bit `i`, `t` is the residue of `x` doubled up to the bit before, and `acc` that of `x`
times the bits of `y` below `i`; after `k` bits more, `acc` has taken them in. -/
theorem toNat_mulmodBits {n : Word} (hn : n ≠ 0) (x : Nat) (y : Word) (k : Nat) :
    ∀ {i : Nat} {t acc : Word}, t.toNat = x * 2 ^ (i - 1) % n.toNat →
      acc.toNat = x * (y.toNat % 2 ^ i) % n.toNat →
      (mulmodBits n y k i t acc).toNat = x * (y.toNat % 2 ^ (i + k)) % n.toNat := by
  induction k with
  | zero => exact fun _ hacc => hacc
  | succ k ih =>
    intro i t acc ht hacc
    have ht' := toNat_double hn ht
    rw [mulmodBits, ih ht' (toNat_add_at_bit hn ht' hacc), add_right_comm, add_assoc]

/-- The multiplier in Words returns the value of R157. -/
theorem toNat_mulmod (x y : Word) {n : Word} (hn : n ≠ 0) :
    (mulmod x y n).toNat = Machine.mulmod x.toNat y.toNat n.toNat := by
  have hx : (x % n).toNat = x.toNat * 2 ^ (0 - 1) % n.toNat := by rw [BitVec.toNat_umod, pow_zero, mul_one]
  have hzero : (0 : Word).toNat = x.toNat * (y.toNat % 2 ^ 0) % n.toNat := by simp [Nat.mod_one]
  have hy : y.toNat % 2 ^ (0 + Config.width) = y.toNat := Nat.mod_eq_of_lt y.isLt
  rw [mulmod, toNat_mulmodBits hn x.toNat y _ hx hzero, hy, Machine.mulmod]

/-- Settles O57: the three methods return the values of the result rules. -/
theorem narrowAdderSubtractorMultiplierAreExact : Obligations.NarrowAdderSubtractorMultiplierAreExact :=
  fun a b _ hn => ⟨toNat_addmod a b hn, toNat_submod a b hn, toNat_mulmod a b hn⟩

end Sys2Proof.Machine.Reference
end

section
/-! MODPOW (42_modpow.md R170, R171): the power modulo OPN, or code 2 for a zero modulus. -/

namespace Sys2Proof.Machine

/-- For a non-zero modulus `powmod` on Words is the power of R170, with nothing lost (R9). -/
theorem toNat_powmodWord (b e : Word) {n : Word} (hn : n ≠ 0) :
    (powmodWord b e n).toNat = b.toNat ^ e.toNat % n.toNat := by
  have hpos : 0 < n.toNat := BitVec.toNat_pos_of_ne_zero hn
  have hfits : powmod b.toNat e.toNat n.toNat < 2 ^ 32 := (powmod_lt _ _ _ hpos).trans n.isLt
  rw [powmodWord, if_neg hn, toNat_toWord _ hfits, powmod_eq _ _ _ e.isLt hpos]

/-- Settles O31: a zero modulus is an error whatever the exponent is; else the one result is the power. -/
theorem modpowAnswersThePowerModuloN : Obligations.ModpowAnswersThePowerModuloN := by
  refine ⟨decode_encode (i := .modpow) rfl, fun s ctx hs => ?_⟩
  obtain ⟨hzero, hresult⟩ := exec_of_modularResult (i := .modpow) (f := powmodWord) hs rfl
  exact ⟨hzero, fun hn => ⟨_, hresult hn, toNat_powmodWord ctx.regs.opa ctx.regs.opb hn⟩⟩

end Sys2Proof.Machine
end

section
/-! Square-and-multiply over the narrow multiplier in wrapping Words (42_modpow.md R172). -/

namespace Sys2Proof.Machine.Reference

/-- Squaring: the residue of `b ^ 2 ^ i` from that of one bit lower; at bit 0 nothing is squared (R172). -/
theorem toNat_square {n sq : Word} (hn : n ≠ 0) {b i : Nat} (hsq : sq.toNat = b ^ 2 ^ (i - 1) % n.toNat) :
    (if i = 0 then sq else mulmod sq sq n).toNat = b ^ 2 ^ i % n.toNat := by
  cases i with
  | zero => exact hsq
  | succ i =>
    rw [if_neg i.succ_ne_zero, toNat_mulmod sq sq hn, Machine.mulmod, hsq, Nat.add_sub_cancel, ← Nat.mul_mod,
      ← pow_add, ← mul_two, ← pow_succ]

/-- Multiplying: where bit `i` of `e` is set, the residue of `b ^ 2 ^ i` joins that of `b` to the bits below (R172). -/
theorem toNat_multiply_at_bit {n e sq acc : Word} (hn : n ≠ 0) {b i : Nat} (hsq : sq.toNat = b ^ 2 ^ i % n.toNat)
    (hacc : acc.toNat = b ^ (e.toNat % 2 ^ i) % n.toNat) :
    (if e.getLsbD i then mulmod acc sq n else acc).toNat = b ^ (e.toNat % 2 ^ (i + 1)) % n.toNat := by
  rw [Nat.mod_pow_succ, ← Nat.toNat_testBit, BitVec.testBit_toNat]
  cases e.getLsbD i with
  | false => simpa using hacc
  | true => simp [toNat_mulmod acc sq hn, Machine.mulmod, hacc, hsq, pow_add]

/-- The invariant of R172: before bit `i`, `sq` is the residue of `b` squared up to the bit before, and `acc` that of
`b` to the bits of `e` below `i`; after `k` bits more, `acc` has taken them in. -/
theorem toNat_powmodBits {n : Word} (hn : n ≠ 0) (b : Nat) (e : Word) (k : Nat) :
    ∀ {i : Nat} {sq acc : Word}, sq.toNat = b ^ 2 ^ (i - 1) % n.toNat →
      acc.toNat = b ^ (e.toNat % 2 ^ i) % n.toNat →
      (powmodBits n e k i sq acc).toNat = b ^ (e.toNat % 2 ^ (i + k)) % n.toNat := by
  induction k with
  | zero => exact fun _ hacc => hacc
  | succ k ih =>
    intro i sq acc hsq hacc
    have hsq' := toNat_square hn hsq
    rw [powmodBits, ih hsq' (toNat_multiply_at_bit hn hsq' hacc), add_right_comm, add_assoc]

/-- Settles O58: over all bits of the exponent, square-and-multiply has taken the whole power. -/
theorem narrowSquareAndMultiplyIsExact : Obligations.NarrowSquareAndMultiplyIsExact := by
  intro b e n hn
  have hb : (b % n).toNat = b.toNat ^ 2 ^ (0 - 1) % n.toNat := by rw [BitVec.toNat_umod, pow_zero, pow_one]
  have hone : (1 % n).toNat = b.toNat ^ (e.toNat % 2 ^ 0) % n.toNat := by simp [Nat.mod_one]
  have he : e.toNat % 2 ^ (0 + Config.width) = e.toNat := Nat.mod_eq_of_lt e.isLt
  rw [powmod, toNat_powmodBits hn b.toNat e _ hb hone, he]

end Sys2Proof.Machine.Reference
end

section
/-! GCD (43_gcd.md R180, R181): the greatest common divisor, which cannot fail. -/

namespace Sys2Proof.Machine

/-- R180: the greatest common divisor of two Words is a Word. -/
theorem gcdOf_lt (a b : Word) : gcdOf a.toNat b.toNat < 2 ^ 32 := by
  rcases Nat.eq_zero_or_pos b.toNat with hzero | hpos
  · rw [hzero, gcdOf, Nat.gcd_zero_right]
    exact a.isLt
  · exact (Nat.gcd_le_right _ hpos).trans_lt b.isLt

/-- The Word GCD answers loses nothing of the greatest common divisor over the naturals (R9, R180). -/
theorem toNat_toWord_gcdOf (a b : Word) : (toWord (gcdOf a.toNat b.toNat)).toNat = Nat.gcd a.toNat b.toNat :=
  toNat_toWord _ (gcdOf_lt a b)

/-- Settles O32: GCD has finished at once whatever its operands, and its answer has the value of the greatest common
divisor over the naturals. -/
theorem gcdAnswersTheGreatestCommonDivisor : Obligations.GcdAnswersTheGreatestCommonDivisor := by
  refine ⟨decode_encode (i := .gcd) rfl, fun s ctx hs =>
    ⟨toWord (gcdOf ctx.regs.opa.toNat ctx.regs.opb.toNat), exec_of_fin (i := .gcd) hs rfl, ?_⟩⟩
  rw [toNat_toWord_gcdOf]
  exact ⟨Nat.gcd_dvd_left _ _, Nat.gcd_dvd_right _ _, fun _ => Nat.dvd_gcd⟩

end Sys2Proof.Machine
end

section
/-! The classic Euclidean algorithm in Words (43_gcd.md R182). -/

namespace Sys2Proof.Machine.Reference

/-- R182: each pass keeps the greatest common divisor and lowers the second operand, so with more passes than that
operand the loop ends at 0 and returns the greatest common divisor. -/
theorem toNat_gcdLoop (k : Nat) : ∀ a b : Word, b.toNat < k → (gcdLoop k a b).toNat = Nat.gcd a.toNat b.toNat := by
  induction k with
  | zero => exact fun _ b hk => absurd hk b.toNat.not_lt_zero
  | succ k ih =>
    intro a b hk
    rw [gcdLoop]
    split_ifs with hb
    · simp [hb]
    · have hdecr : (a % b).toNat < b.toNat := BitVec.umod_lt a ((BitVec.pos_iff_ne_zero b).mpr hb)
      have hpass : Nat.gcd b.toNat (a % b).toNat = Nat.gcd a.toNat b.toNat := by
        rw [BitVec.toNat_umod, Nat.gcd_comm, ← Nat.gcd_rec, Nat.gcd_comm]
      rw [ih b (a % b) (by omega), hpass]

/-- The Euclidean algorithm on Words returns the greatest common divisor over the naturals (R180, R182). -/
theorem toNat_gcd (a b : Word) : (gcd a b).toNat = Nat.gcd a.toNat b.toNat := toNat_gcdLoop _ a b (Nat.lt_succ_self _)

/-- `gcd(a, 0) = a`: the loop body never runs (R182). -/
theorem gcd_zero_right (a : Word) : gcd a 0 = a := rfl

/-- `gcd(0, b) = b` (R180). -/
theorem gcd_zero_left (b : Word) : gcd 0 b = b := BitVec.eq_of_toNat_eq (by simp [toNat_gcd])

/-- Settles O59: the loop returns the greatest common divisor, and each boundary value is an equation of its own. -/
theorem euclideanAlgorithmIsExact : Obligations.EuclideanAlgorithmIsExact :=
  fun a b => ⟨toNat_gcd a b, gcd_zero_right a, gcd_zero_left b, gcd_zero_right 0⟩

end Sys2Proof.Machine.Reference
end

section
/-! The witness of a draw (44_primality.md R194). -/

namespace Sys2Proof.Machine

/-- R194's formula. -/
theorem witness_eq (u : Word) (c : Nat) : witness u c = 2 + u.toNat * (c - 2) / 2 ^ 32 := scale_eq _ _ _

theorem two_le_witness (u : Word) (c : Nat) : 2 ≤ witness u c := le_scale _ _ _

/-- R194: the witness of a draw is below a candidate from 3 up. -/
theorem witness_lt (u : Word) {c : Nat} (h3 : 3 ≤ c) : witness u c < c := scale_lt _ _ _ u.isLt h3

/-- Settles O40: the range is that of `scale`, and each end is the formula at its draw. -/
theorem witnessLiesInItsRange : Obligations.WitnessLiesInItsRange := by
  intro c u h3
  refine ⟨witness_eq u _, two_le_witness u _, Nat.le_sub_one_of_lt (witness_lt u h3), ?_, ?_⟩
  · simp [witness_eq]
  · have hc : c.toNat < 2 ^ 32 := c.isLt
    have hmax : (0xFFFFFFFF : Word).toNat = 2 ^ 32 - 1 := rfl
    rw [witness_eq, hmax]
    omega

end Sys2Proof.Machine
end

section
/-! The rounds of the primality tester and the strong witnesses (44_primality.md R190 lines 4 to 16, R192). -/

namespace Sys2Proof.Machine

/-- Lines 12 to 16: the squarings reach `c - 1` exactly when one of the next `k` repeated squares of `x` is `c - 1`
modulo `c`. -/
theorem squaresReach_iff (c k : Nat) : ∀ x : Nat,
    squaresReach c k x = true ↔ ∃ j < k, x ^ 2 ^ (j + 1) % c = c - 1 := by
  induction k with
  | zero => simp [squaresReach]
  | succ k ih =>
    intro x
    have hsq : ∀ j, mulmod x x c ^ 2 ^ j % c = x ^ 2 ^ (j + 1) % c := fun j => by
      rw [mulmod, ← Nat.pow_mod, ← sq, ← pow_mul, ← pow_succ']
    have hfirst : mulmod x x c = x ^ 2 ^ (0 + 1) % c := by rw [mulmod, zero_add, pow_one, sq]
    rw [Nat.exists_lt_succ_left, ← hfirst]
    simp only [squaresReach, Bool.if_true_left, Bool.or_eq_true, decide_eq_true_eq, ih, hsq]

/-- Two factorings of one number into an odd number and a power of two: the first exponent is not above the second. -/
theorem twoExponent_le {d e d' e' : Nat} (hd' : d' % 2 = 1) (h : d * 2 ^ e = d' * 2 ^ e') : e ≤ e' := by
  have hcop : Nat.Coprime (2 ^ e) d' := (Nat.coprime_two_left.mpr (Nat.odd_iff.mpr hd')).pow_left e
  exact (Nat.pow_dvd_pow_iff_le_right' (b := 0)).mp (hcop.dvd_of_dvd_mul_left (Dvd.intro_left d h))

/-- The factoring of R192 is unique. -/
theorem oddPart_unique {d e d' e' : Nat} (hd : d % 2 = 1) (hd' : d' % 2 = 1) (h : d * 2 ^ e = d' * 2 ^ e') :
    d = d' ∧ e = e' := by
  obtain rfl : e = e' := (twoExponent_le hd' h).antisymm (twoExponent_le hd h.symm)
  exact ⟨Nat.eq_of_mul_eq_mul_right (Nat.two_pow_pos e) h, rfl⟩

/-- With the factoring of `c - 1` given, a strong witness is one for this factoring. -/
theorem strongWitness_iff {c d e : Nat} (hprod : c - 1 = d * 2 ^ e) (hodd : d % 2 = 1) (a : Nat) :
    StrongWitness c a ↔ Nat.gcd a c = 1 ∧ (a ^ d % c = 1 ∨ ∃ j < e, a ^ (d * 2 ^ j) % c = c - 1) := by
  refine and_congr_right fun _ => ⟨?_, fun h => ⟨d, e, hprod, hodd, h⟩⟩
  rintro ⟨d', e', hprod', hodd', h⟩
  obtain ⟨rfl, rfl⟩ := oddPart_unique hodd hodd' (hprod.symm.trans hprod')
  exact h

/-- Lines 9 to 16: a round passes exactly for a strong witness; line 11 is the first power, lines 13 to 15 the squares
after it. -/
theorem witnessPasses_iff {c d e : Nat} (h3 : 3 ≤ c) (hprod : c - 1 = d * 2 ^ e) (hodd : d % 2 = 1) (he : 0 < e)
    (hd : d < 2 ^ 32) (a : Nat) : witnessPasses c d e a = true ↔ StrongWitness c a := by
  obtain ⟨e, rfl⟩ := Nat.exists_eq_add_one_of_ne_zero he.ne'
  have hpow : ∀ j, (a ^ d % c) ^ 2 ^ j % c = a ^ (d * 2 ^ j) % c := fun j => by rw [← Nat.pow_mod, ← pow_mul]
  rw [strongWitness_iff hprod hodd, Nat.exists_lt_succ_left, pow_zero, mul_one, ← or_assoc]
  simp [witnessPasses, gcdOf, powmod_eq a d c hd (by omega), squaresReach_iff, hpow]

/-- Lines 4 and 5 on a Word `c` from 3 up that is odd: `c - 1 = d * 2^s` with `d` odd and `s ≥ 1` (R192). -/
theorem factorTwos_spec {c : Nat} (h3 : 3 ≤ c) (hc : c < 2 ^ 32) (hodd : c % 2 = 1) :
    c - 1 = (factorTwos Config.width (c - 1) 0).1 * 2 ^ (factorTwos Config.width (c - 1) 0).2 ∧
    (factorTwos Config.width (c - 1) 0).1 % 2 = 1 ∧ 0 < (factorTwos Config.width (c - 1) 0).2 := by
  have hprod : c - 1 = (factorTwos Config.width (c - 1) 0).1 * 2 ^ (factorTwos Config.width (c - 1) 0).2 := by
    rw [factorTwos_prod, pow_zero, mul_one]
  have hd := factorTwos_odd Config.width (c - 1) 0 (by omega) (show c - 1 < 2 ^ 32 by omega)
  refine ⟨hprod, hd, Nat.pos_of_ne_zero fun hs => ?_⟩
  rw [hs, pow_zero, mul_one] at hprod
  omega

/-- The rounds of a candidate pass exactly the strong witnesses. -/
theorem witnessPasses_factorTwos_iff {c : Nat} (h3 : 3 ≤ c) (hc : c < 2 ^ 32) (hodd : c % 2 = 1) (a : Nat) :
    witnessPasses c (factorTwos Config.width (c - 1) 0).1 (factorTwos Config.width (c - 1) 0).2 a = true ↔
      StrongWitness c a := by
  obtain ⟨hprod, hd, hs⟩ := factorTwos_spec h3 hc hodd
  have hle : (factorTwos Config.width (c - 1) 0).1 ≤ c - 1 :=
    Nat.le_of_dvd (by omega) (Dvd.intro _ hprod.symm)
  exact witnessPasses_iff h3 hprod hd hs (by omega) a

/-! ### What a test answers -/

/-- Everything a test of an odd candidate from 3 up can do: ask for more, answer true after all its rounds, or answer
false at the first draw whose witness is not strong (R190, R195). -/
theorem isprime_odd_cases {c : Nat} (h3 : 3 ≤ c) (hc : c < 2 ^ 32) (hodd : c % 2 = 1) (k : Nat) (draws : List Word) :
    (isprime c k draws = .more ∧ draws.length < k ∧ ∀ u ∈ draws, StrongWitness c (witness u c)) ∨
    (isprime c k draws = .done true (draws.drop k) ∧ k ≤ draws.length ∧
      ∀ u ∈ draws.take k, StrongWitness c (witness u c)) ∨
    (∃ pre u rest, draws = pre ++ u :: rest ∧ pre.length < k ∧ isprime c k draws = .done false rest ∧
      (∀ v ∈ pre, StrongWitness c (witness v c)) ∧ ¬ StrongWitness c (witness u c)) := by
  simp only [isprime_odd c k draws hodd (by omega), ← witnessPasses_factorTwos_iff h3 hc hodd, Bool.not_eq_true]
  exact rounds_cases _ _ _ k draws

/-- A draw before the end of the rounds is one of the first `k`. -/
theorem mem_take_of_split {α : Type} {pre rest : List α} {u : α} {k : Nat} (hk : pre.length < k) :
    u ∈ (pre ++ u :: rest).take k := by
  obtain ⟨n, rfl⟩ := Nat.exists_eq_add_of_lt hk
  simp [List.take_append, add_assoc]

section
variable {c k : Nat} {draws : List Word} (h3 : 3 ≤ c) (hc : c < 2 ^ 32) (hodd : c % 2 = 1)
include h3 hc hodd

/-- With all its rounds drawn and every witness strong, the test answers true. -/
theorem isprime_eq_true (hk : k ≤ draws.length) (hs : ∀ u ∈ draws.take k, StrongWitness c (witness u c)) :
    isprime c k draws = .done true (draws.drop k) := by
  rcases isprime_odd_cases h3 hc hodd k draws with ⟨-, hl, -⟩ | ⟨h, -, -⟩ | ⟨pre, u, rest, rfl, hl, -, -, hu⟩
  · omega
  · exact h
  · exact absurd (hs u (mem_take_of_split hl)) hu

/-- With a witness that is not strong among the rounds drawn, the test answers false. -/
theorem isprime_eq_false (hw : ∃ u ∈ draws.take k, ¬ StrongWitness c (witness u c)) :
    ∃ rest, isprime c k draws = .done false rest := by
  obtain ⟨u, hmem, hu⟩ := hw
  rcases isprime_odd_cases h3 hc hodd k draws with ⟨-, -, hs⟩ | ⟨-, -, hs⟩ | ⟨-, -, rest, -, -, h, -⟩
  · exact absurd (hs u (List.mem_of_mem_take hmem)) hu
  · exact absurd (hs u hmem) hu
  · exact ⟨rest, h⟩

/-- With fewer draws than rounds and every witness strong, the test asks for one more draw. -/
theorem isprime_eq_more (hk : draws.length < k) (hs : ∀ u ∈ draws, StrongWitness c (witness u c)) :
    isprime c k draws = .more := by
  rcases isprime_odd_cases h3 hc hodd k draws with ⟨h, -, -⟩ | ⟨-, hl, -⟩ | ⟨pre, u, rest, rfl, -, -, -, hu⟩
  · exact h
  · omega
  · exact absurd (hs u (by simp)) hu

/-- A test that has finished consumed one draw in each of its rounds: all of them when it answers true, and those up to
the failing one when it answers false (R195). -/
theorem isprime_odd_done {rest : List Word} {b : Bool} (h : isprime c k draws = .done b rest) :
    ∃ n ≤ draws.length, rest = draws.drop n ∧
      (b = true → n = k ∧ ∀ u ∈ draws.take n, StrongWitness c (witness u c)) ∧
      (b = false → 1 ≤ n ∧ n ≤ k ∧ (∀ u ∈ draws.take (n - 1), StrongWitness c (witness u c)) ∧
        ∀ u ∈ draws[n - 1]?, ¬ StrongWitness c (witness u c)) := by
  rcases isprime_odd_cases h3 hc hodd k draws with ⟨h', -⟩ | ⟨h', hk, hs⟩ | ⟨pre, u, after, rfl, hk, h', hs, hu⟩ <;>
    cases h'.symm.trans h
  · exact ⟨k, hk, rfl, fun _ => ⟨rfl, hs⟩, Bool.noConfusion⟩
  · exact ⟨pre.length + 1, by simp, by simp, Bool.noConfusion,
      fun _ => ⟨by omega, hk, by simpa using hs, by simpa using hu⟩⟩

end

/-- A test that asks for more is of an odd candidate from 3 up, with strong witnesses only and fewer than its rounds. -/
theorem isprime_more_strong {c k : Nat} {draws : List Word} (hc : c < 2 ^ 32) (h : isprime c k draws = .more) :
    c % 2 = 1 ∧ 3 ≤ c ∧ draws.length < k ∧ ∀ u ∈ draws, StrongWitness c (witness u c) := by
  by_cases htriv : c % 2 = 0 ∨ c = 1
  · rw [isprime_trivial c k draws htriv] at h
    cases h
  · have hodd : c % 2 = 1 := by omega
    have h3 : 3 ≤ c := by omega
    rcases isprime_odd_cases h3 hc hodd k draws with ⟨-, hl, hs⟩ | ⟨h', -⟩ | ⟨_, _, _, _, _, h', _⟩
    · exact ⟨hodd, h3, hl, hs⟩
    · cases h'.symm.trans h
    · cases h'.symm.trans h

end Sys2Proof.Machine
end

section
/-! ISPRIME (44_primality.md R190, R191, R195): its answer, and the draws it consumes. -/

namespace Sys2Proof.Machine

/-- The engine's turn on a command that asks for one more draw takes the draw that is offered, if any (20_memory.md
R93). -/
theorem exec_of_more {i : Instr} {s : State} {ctx : InFlight} (hs : s.inFlight = some ctx)
    (hm : instrResult i ctx.regs ctx.draws = .more) : exec i s = .next (s.takeDraw ctx) :=
  (exec_eq_engineTurn i s).trans (engineTurn_more hs hm)

/-- A test that has finished completes ISPRIME with its answer and code 0 (R191). -/
theorem exec_isprime_of_done {s : State} {ctx : InFlight} {b : Bool} {rest : List Word} (hs : s.inFlight = some ctx)
    (h : isprime ctx.regs.opa.toNat ctx.regs.opb.toNat ctx.draws = .done b rest) :
    exec .isprime s = .next { s with
      inFlight := none, done := true, err := false, errCode := 0, res0 := if b then 1 else 0, res1 := 0 } :=
  exec_of_fin (o := success (if b then 1 else 0) 0) hs (by simp only [instrResult, isprimeResult, h])

/-- Settles O37: the cases of the statement are those of the test (`isprime_trivial`, `isprime_eq_true`,
`isprime_eq_false`, `isprime_eq_more`), each with the engine's turn it brings about. -/
theorem isprimeAnswersByItsDrawnWitnesses : Obligations.IsprimeAnswersByItsDrawnWitnesses := by
  refine ⟨decode_encode (i := .isprime) rfl, ?_⟩
  rintro s ctx _ _ hs rfl rfl
  simp only [← witness_eq]
  refine ⟨fun htriv => ?_, fun hodd h3 => ?_⟩
  · have hexec := exec_isprime_of_done hs (isprime_trivial _ _ _ htriv)
    simpa using hexec
  · have hc : ctx.regs.opa.toNat < 2 ^ 32 := ctx.regs.opa.isLt
    refine ⟨fun hk hstrong => ?_, fun hfail => ?_, fun hk hstrong => ?_⟩
    · exact exec_isprime_of_done hs (isprime_eq_true h3 hc hodd hk hstrong)
    · obtain ⟨rest, hfalse⟩ := isprime_eq_false h3 hc hodd hfail
      exact exec_isprime_of_done hs hfalse
    · have hexec := exec_of_more (i := .isprime) hs
        (isprimeResult_eq_more.mpr (isprime_eq_more h3 hc hodd hk hstrong))
      refine ⟨fun hnone => ?_, fun u hu => ⟨_, hexec, ?_⟩⟩
      · simpa [State.takeDraw, hnone] using hexec
      · rw [takeDraw_of_reply hu]
        rfl

/-- Settles O39: a finished test consumed no draw for a trivial candidate; else the draws of its rounds, or those up to
and including the failing one. -/
theorem isprimeConsumesOneDrawPerRound : Obligations.IsprimeConsumesOneDrawPerRound := by
  refine ⟨fun c r draws rest b h => ?_, fun c r draws =>
    ⟨isprime_more_strong c.isLt, isprime_ne_raise _ _ _⟩⟩
  by_cases htriv : c.toNat % 2 = 0 ∨ c.toNat = 1
  · rw [isprime_trivial _ _ _ htriv] at h
    injection h with hb hrest
    refine ⟨0, Nat.zero_le _, hrest.symm, fun _ => ⟨rfl, ?_⟩, fun hodd h3 => by omega⟩
    rw [← hb, decide_eq_true_eq, ← BitVec.toNat_inj]
    rfl
  · obtain ⟨k, hk, hrest, htrue, hfalse⟩ := isprime_odd_done (by omega) c.isLt (by omega) h
    exact ⟨k, hk, hrest, fun h => absurd h htriv, fun _ _ => ⟨htrue, hfalse⟩⟩

end Sys2Proof.Machine
end

section
/-! Prime candidates (44_primality.md R198). -/

namespace Sys2Proof.Machine

/-- Without zero divisors, repeated squaring reaches 1 only from 1 or by way of -1. -/
theorem eq_one_or_reaches_neg_one {R : Type} [CommRing R] [NoZeroDivisors R] {x : R} (e : Nat)
    (h : x ^ 2 ^ e = 1) : x = 1 ∨ ∃ j < e, x ^ 2 ^ j = -1 := by
  induction e with
  | zero => exact .inl (by simpa using h)
  | succ e ih =>
    rw [pow_succ, pow_mul, sq_eq_one_iff] at h
    rcases h with h | h
    · exact (ih h).imp_right fun ⟨j, hj, hx⟩ => ⟨j, by omega, hx⟩
    · exact .inr ⟨e, by omega, h⟩

/-- A number equal to a residue `r` in `ZMod c` leaves the remainder `r`. -/
theorem mod_eq_of_cast_eq {c x r : Nat} (hr : r < c) (h : (x : ZMod c) = r) : x % c = r :=
  ((ZMod.natCast_eq_natCast_iff' _ _ _).mp h).trans (Nat.mod_eq_of_lt hr)

/-- For a prime `c` every number from 1 to `c - 1` is a strong witness (R198): by Fermat's little theorem the repeated
squares of `a ^ d` end in 1, and they reach it only from 1 or by way of -1. -/
theorem strongWitness_of_prime {c a : Nat} (hp : c.Prime) (ha : 0 < a) (hac : a < c) : StrongWitness c a := by
  have : Fact c.Prime := ⟨hp⟩
  have hc : 1 < c := hp.one_lt
  obtain ⟨e, d, hd, hprod⟩ := Nat.exists_eq_two_pow_mul_odd (show c - 1 ≠ 0 by omega)
  rw [mul_comm] at hprod
  have hne : (a : ZMod c) ≠ 0 := by
    rw [Ne, ZMod.natCast_eq_zero_iff]
    exact Nat.not_dvd_of_pos_of_lt ha hac
  have hfermat : ((a : ZMod c) ^ d) ^ 2 ^ e = 1 := by
    rw [← pow_mul, ← hprod]
    exact ZMod.pow_card_sub_one_eq_one hne
  refine ⟨(Nat.coprime_of_lt_prime ha.ne' hac hp).symm, d, e, hprod, Nat.odd_iff.mp hd, ?_⟩
  rcases eq_one_or_reaches_neg_one e hfermat with h | ⟨j, hj, h⟩
  · exact .inl (mod_eq_of_cast_eq hc (by simpa using h))
  · refine .inr ⟨j, hj, mod_eq_of_cast_eq (by omega) ?_⟩
    simpa [Nat.cast_pred hp.pos, pow_mul] using h

/-- A test of a prime with enough draws answers true, whatever they are (R198). -/
theorem isprime_of_prime {c k : Nat} {draws : List Word} (hp : c.Prime) (hc : c < 2 ^ 32) (hk : k ≤ draws.length) :
    ∃ rest, isprime c k draws = .done true rest := by
  rcases hp.eq_two_or_odd with rfl | hodd
  · exact ⟨draws, isprime_trivial 2 k draws (.inl rfl)⟩
  · have h3 : 3 ≤ c := by have := hp.two_le; omega
    refine ⟨_, isprime_eq_true h3 hc hodd hk fun u _ => ?_⟩
    exact strongWitness_of_prime hp (by have := two_le_witness u c; omega) (witness_lt u h3)

/-- Settles O38: the test of a prime answers true. -/
theorem isprimeHasNoFalseNegatives : Obligations.IsprimeHasNoFalseNegatives := by
  intro s ctx hs hp hk
  obtain ⟨rest, htrue⟩ := isprime_of_prime hp ctx.regs.opa.isLt hk
  exact exec_isprime_of_done hs htrue

end Sys2Proof.Machine
end

section
/-! MODINV (45_modinv.md R210, R211): the unique inverse, or one of two errors in order. -/

namespace Sys2Proof.Machine

/-- R210: coprime operands have at most one inverse that is a residue. -/
theorem inverse_unique {a m x y : Nat} (hcop : Nat.gcd a m = 1) (hx : x < m) (hy : y < m)
    (hax : a * x % m = 1 % m) (hay : a * y % m = 1 % m) : y = x := by
  have hprod : a * y ≡ a * x [MOD m] := hay.trans hax.symm
  have hcancel : y ≡ x [MOD m] := Nat.ModEq.cancel_left_of_coprime ((Nat.gcd_comm m a).trans hcop) hprod
  exact hcancel.eq_of_lt_of_lt hy hx

/-- The Word MODINV answers loses nothing of the inverse over the naturals (R9, R210). -/
theorem toNat_toWord_inverse (a : Nat) {m : Word} (hm : m ≠ 0) :
    (toWord (inverse a m.toNat)).toNat = inverse a m.toNat :=
  toNat_toWord _ ((inverse_lt a _ (BitVec.toNat_pos_of_ne_zero hm)).trans m.isLt)

/-- MODINV with a zero modulus ends with code 2, whatever the other operand is (R211). -/
theorem modinvResult_of_eq_zero {r : Snapshot} (h : r.opn = 0) (draws : List Word) :
    modinvResult r draws = .fin (errorOutcome .divisionByZero) := if_pos h

/-- MODINV with a non-zero modulus and operands that are not coprime ends with code 3 (R211). -/
theorem modinvResult_of_not_coprime {r : Snapshot} (hn : r.opn ≠ 0) (hg : Nat.gcd r.opa.toNat r.opn.toNat ≠ 1)
    (draws : List Word) : modinvResult r draws = .fin (errorOutcome .inverseUndefined) :=
  (if_neg hn).trans (if_pos hg)

/-- MODINV with a non-zero modulus and coprime operands ends with the inverse (R211). -/
theorem modinvResult_of_coprime {r : Snapshot} (hn : r.opn ≠ 0) (hg : Nat.gcd r.opa.toNat r.opn.toNat = 1)
    (draws : List Word) :
    modinvResult r draws = .fin (success (toWord (inverse r.opa.toNat r.opn.toNat)) 0) :=
  (if_neg hn).trans (if_neg (not_not.mpr hg))

/-- Settles O33: the three cases are those of MODINV's result; for coprime operands the answer is a residue that is an
inverse, and there is no other. -/
theorem modinvAnswersTheInverse : Obligations.ModinvAnswersTheInverse := by
  refine ⟨decode_encode (i := .modinv) rfl, fun s ctx hs => ⟨fun hzero => ?_, fun hn hg => ?_, fun hn hg => ?_⟩⟩
  · exact exec_of_fin (i := .modinv) hs (modinvResult_of_eq_zero hzero ctx.draws)
  · exact exec_of_fin (i := .modinv) hs (modinvResult_of_not_coprime hn hg ctx.draws)
  · have hpos : 0 < ctx.regs.opn.toNat := BitVec.toNat_pos_of_ne_zero hn
    have hlt := inverse_lt ctx.regs.opa.toNat _ hpos
    have hinv := mul_inverse_mod _ _ hpos hg
    refine ⟨toWord (inverse ctx.regs.opa.toNat ctx.regs.opn.toNat),
      exec_of_fin (i := .modinv) hs (modinvResult_of_coprime hn hg ctx.draws), ?_⟩
    rw [toNat_toWord_inverse _ hn]
    exact ⟨hlt, hinv, fun y hy hay => inverse_unique hg hlt hy hinv hay⟩

end Sys2Proof.Machine
end

section
/-! The extended Euclidean iteration in wrapping Words (45_modinv.md R212, R213). -/

namespace Sys2Proof.Machine.Reference

/-- The coefficient update in Words, by the multiplier and the subtractor, has the value of the update over the naturals
(R212). -/
theorem toNat_coefficient {m : Word} (hm : m ≠ 0) (q x0 x1 : Word) :
    (submod x0 (mulmod q x1 m) m).toNat =
      Machine.submod x0.toNat (Machine.mulmod q.toNat x1.toNat m.toNat) m.toNat := by
  rw [toNat_submod _ _ hm, toNat_mulmod _ _ hm]

/-- The loop in Words and the loop over the naturals take the same passes and hold the same values (R212). -/
theorem toNat_xgcdLoop {m : Word} (hm : m ≠ 0) (k : Nat) : ∀ r0 r1 x0 x1 : Word,
    (xgcdLoop m k r0 r1 x0 x1).map BitVec.toNat BitVec.toNat =
      Machine.xgcdLoop m.toNat k r0.toNat r1.toNat x0.toNat x1.toNat := by
  induction k with
  | zero => exact fun r0 r1 x0 x1 => congrArg (Prod.mk r0.toNat) BitVec.toNat_umod
  | succ k ih =>
    intro r0 r1 x0 x1
    rw [xgcdLoop, Machine.xgcdLoop]
    by_cases hr : r1 = 0
    · simp [hr]
    · have hr' : r1.toNat ≠ 0 := (BitVec.toNat_pos_of_ne_zero hr).ne'
      rw [if_neg hr, if_neg hr', ih, toNat_coefficient hm, BitVec.toNat_umod, BitVec.toNat_udiv]

/-- The iteration in Words returns the values of the iteration over the naturals (R212). -/
theorem toNat_xgcd (a : Word) {m : Word} (hm : m ≠ 0) :
    (xgcd a m).map BitVec.toNat BitVec.toNat = Machine.xgcd a.toNat m.toNat :=
  toNat_xgcdLoop hm m.toNat a m 1 0

/-- Settles O60: the pair is that of the iteration over the naturals, whose invariant is R213's (`xgcd_spec`). -/
theorem extendedEuclideanIterationIsExact : Obligations.ExtendedEuclideanIterationIsExact := by
  intro a m hm
  have hgcd : (xgcd a m).1.toNat = (Machine.xgcd a.toNat m.toNat).1 := congrArg Prod.fst (toNat_xgcd a hm)
  have hcoef : (xgcd a m).2.toNat = (Machine.xgcd a.toNat m.toNat).2 := congrArg Prod.snd (toNat_xgcd a hm)
  obtain ⟨hg, hmod, hlt⟩ := xgcd_spec a.toNat m.toNat (BitVec.toNat_pos_of_ne_zero hm)
  rw [hgcd, hcoef]
  exact ⟨hg, hlt, hmod.symm⟩

end Sys2Proof.Machine.Reference
end

section
/-! The loops of KEYGEN and their relations (46_keygen.md R220, R222, R223, R225, R228): each loop ends as its relation
says, on every draws. -/

namespace Sys2Proof.Machine

/-- The loop ended with this value and these draws left, or without a value by exceeding its attempts (R228). -/
def Run.EndsAs (x : Run Nat) (rest : List Word) : Option Nat → Prop
  | some c => x = .done c rest
  | none => x = .raise .attemptsExceeded

/-- The loop ends exactly as the relation `search` on a result and the draws left says. -/
structure Run.Follows (x : Run Nat) (search : Option Nat → List Word → Prop) : Prop where
  sound : ∀ {r rest}, search r rest → x.EndsAs rest r
  complete : x ≠ .more → ∃ r rest, search r rest

section
variable {x : Run Nat} {search : Option Nat → List Word → Prop} (h : x.Follows search)
include h

theorem Run.Follows.done_iff {c : Nat} {rest : List Word} : x = .done c rest ↔ search (some c) rest := by
  refine ⟨fun hx => ?_, fun hs => h.sound hs⟩
  obtain ⟨r, rest', hs⟩ := h.complete (by simp [hx])
  have hend := h.sound hs
  cases r with
  | none => cases hx.symm.trans hend
  | some c' => cases hx.symm.trans hend; exact hs

theorem Run.Follows.raise_iff {e : CmdError} : x = .raise e ↔ e = .attemptsExceeded ∧ ∃ rest, search none rest := by
  refine ⟨fun hx => ?_, fun ⟨he, rest, hs⟩ => he ▸ h.sound hs⟩
  obtain ⟨r, rest', hs⟩ := h.complete (by simp [hx])
  have hend := h.sound hs
  cases r with
  | none => cases hx.symm.trans hend; exact ⟨rfl, rest', hs⟩
  | some c' => cases hx.symm.trans hend

end

/-! ### One attempt -/

section
variable {cheap : Nat → Bool} {lo hi : Nat} {u : Word} {rest rest' : List Word} (k : Nat)

theorem drawPrime_of_not_cheap (hc : cheap (scale u.toNat lo hi) = false) :
    drawPrime cheap lo hi (k + 1) (u :: rest) = drawPrime cheap lo hi k rest := by
  simp [drawPrime, hc]

theorem drawPrime_of_not_prime (hc : cheap (scale u.toNat lo hi) = true)
    (hp : isprime (scale u.toNat lo hi) Config.kgRounds rest = .done false rest') :
    drawPrime cheap lo hi (k + 1) (u :: rest) = drawPrime cheap lo hi k rest' := by
  simp [drawPrime, hc, hp]

theorem drawPrime_of_prime (hc : cheap (scale u.toNat lo hi) = true)
    (hp : isprime (scale u.toNat lo hi) Config.kgRounds rest = .done true rest') :
    drawPrime cheap lo hi (k + 1) (u :: rest) = .done (scale u.toNat lo hi) rest' := by
  simp [drawPrime, hc, hp]

end

theorem drawExponent_of_common_factor {phi : Nat} {u : Word} (hg : Nat.gcd (scale u.toNat 2 phi) phi ≠ 1) (k : Nat)
    (rest : List Word) : drawExponent phi (k + 1) (u :: rest) = drawExponent phi k rest := if_neg hg

theorem drawExponent_of_coprime {phi : Nat} {u : Word} (hg : Nat.gcd (scale u.toNat 2 phi) phi = 1) (k : Nat)
    (rest : List Word) : drawExponent phi (k + 1) (u :: rest) = .done (scale u.toNat 2 phi) rest := if_pos hg

/-! ### The loops -/

/-- A prime loop whose cheap test decides that of the relation ends as the relation says (R222, R223, R228). -/
theorem drawPrime_follows {cheap : Nat → Bool} {P : Nat → Prop} (hcheap : ∀ c, cheap c = true ↔ P c) (lo hi k : Nat)
    (draws : List Word) : (drawPrime cheap lo hi k draws).Follows (PrimeSearch P lo hi k draws) where
  sound hs := by
    induction hs with
    | exhausted => rfl
    | tooCheap k u draws rest r hc _ ih =>
      have hf : cheap (scale u.toNat lo hi) = false := Bool.eq_false_iff.mpr (mt (hcheap _).mp hc)
      rwa [drawPrime_of_not_cheap k hf]
    | notPrime k u draws tested rest r hc hp _ ih => rwa [drawPrime_of_not_prime k ((hcheap _).mpr hc) hp]
    | taken k u draws rest hc hp => exact drawPrime_of_prime k ((hcheap _).mpr hc) hp
  complete := by
    induction k generalizing draws with
    | zero => exact fun _ => ⟨none, draws, .exhausted draws⟩
    | succ k ih =>
      intro hmore
      cases draws with
      | nil => exact absurd rfl hmore
      | cons u rest =>
        by_cases hc : cheap (scale u.toNat lo hi) = true
        · cases hp : isprime (scale u.toNat lo hi) Config.kgRounds rest with
          | more => exact absurd (by simp [drawPrime, hc, hp]) hmore
          | raise e => exact absurd hp (isprime_ne_raise _ _ _ _)
          | done b rest' =>
            cases b with
            | true => exact ⟨_, _, .taken k u rest rest' ((hcheap _).mp hc) hp⟩
            | false =>
              rw [drawPrime_of_not_prime k hc hp] at hmore
              obtain ⟨r, last, hs⟩ := ih rest' hmore
              exact ⟨r, last, .notPrime k u rest rest' last r ((hcheap _).mp hc) hp hs⟩
        · rw [drawPrime_of_not_cheap k (Bool.eq_false_iff.mpr hc)] at hmore
          obtain ⟨r, last, hs⟩ := ih rest hmore
          exact ⟨r, last, .tooCheap k u rest last r (mt (hcheap _).mpr hc) hs⟩

/-- The exponent loop ends as its relation says (R225, R228). -/
theorem drawExponent_follows (phi k : Nat) (draws : List Word) :
    (drawExponent phi k draws).Follows (ExponentSearch phi k draws) where
  sound hs := by
    induction hs with
    | exhausted => rfl
    | commonFactor k u draws rest r hg _ ih => rwa [drawExponent_of_common_factor hg]
    | taken k u draws hg => exact drawExponent_of_coprime hg k draws
  complete := by
    induction k generalizing draws with
    | zero => exact fun _ => ⟨none, draws, .exhausted draws⟩
    | succ k ih =>
      intro hmore
      cases draws with
      | nil => exact absurd rfl hmore
      | cons u rest =>
        by_cases hg : Nat.gcd (scale u.toNat 2 phi) phi = 1
        · exact ⟨_, _, .taken k u rest hg⟩
        · rw [drawExponent_of_common_factor hg] at hmore
          obtain ⟨r, last, hs⟩ := ih rest hmore
          exact ⟨r, last, .commonFactor k u rest last r hg hs⟩

theorem drawP_follows (kg : KgConfig) (draws : List Word) : (drawP kg draws).Follows (SearchP kg draws) :=
  drawPrime_follows (fun _ => decide_eq_true_iff) _ _ _ draws

theorem drawQ_follows (kg : KgConfig) (p : Nat) (draws : List Word) :
    (drawQ kg p draws).Follows (SearchQ kg p draws) :=
  drawPrime_follows (fun _ => decide_eq_true_iff) _ _ _ draws

/-- A prime that a prime loop takes is a scaled draw that passed the cheap test, and passed the primality test on draws
of the loop (R222, R223). -/
theorem drawPrime_taken {cheap : Nat → Bool} {lo hi k c : Nat} {draws rest : List Word}
    (h : drawPrime cheap lo hi k draws = .done c rest) : (∃ u : Word, c = scale u.toNat lo hi) ∧ cheap c = true ∧
      ∃ tested, isprime c Config.kgRounds tested = .done true rest ∧ tested <:+ draws := by
  rcases drawPrime_cases cheap lo hi k draws with h' | h' | ⟨c', u, tested, r, h', hu, hc, hp, hsuf⟩ <;>
    cases h'.symm.trans h
  exact ⟨⟨u, hu⟩, hc, tested, hp, hsuf⟩

end Sys2Proof.Machine
end

section
/-! `keygen()` (46_keygen.md R220, R224 to R228): the keys it ends with and the errors it raises. -/

namespace Sys2Proof.Machine

/-- What the three loops guarantee of the primes and the exponent they take (R222 to R225). -/
structure KeyParts (p q e : Nat) : Prop where
  two_le_p : 2 ≤ p
  two_le_q : 2 ≤ q
  distinct : p ≠ q
  product_lt : p * q < 2 ^ 32
  two_le_e : 2 ≤ e
  e_lt : e < totient p q
  coprime : Nat.gcd e (totient p q) = 1

/-- The upper bound of `q` keeps the product a Word (R223). -/
theorem mul_lt_of_le_maxWord_div {p q : Nat} (h : q ≤ Config.maxWord / p) : p * q < 2 ^ 32 := by
  have hle : p * q ≤ Config.maxWord := (Nat.mul_le_mul_left p h).trans (Nat.mul_div_le _ _)
  exact Nat.lt_of_le_of_lt hle (by decide)

theorem keyParts_of_loops {kg : KgConfig} {p q e k : Nat} {draws afterP afterQ rest : List Word}
    (hP : drawP kg draws = .done p afterP) (hQ : drawQ kg p afterP = .done q afterQ)
    (hE : drawExponent (totient p q) k afterQ = .done e rest) : KeyParts p q e := by
  obtain ⟨hp, -⟩ := drawPrime_done hP
  obtain ⟨hq, hcheap⟩ := drawPrime_done hQ
  obtain ⟨-, hle, hne⟩ := of_decide_eq_true hcheap
  obtain ⟨he, hlt, hg⟩ := drawExponent_done (two_le_totient hp hq hne.symm) hE
  exact ⟨hp, hq, hne.symm, mul_lt_of_le_maxWord_div hle, he, hlt, hg⟩

/-- The KeyPair of two primes and a public exponent (R220 lines 18, 27, 29). -/
def keyFileOf (p q e : Nat) : KeyFile :=
  ⟨toWord p, toWord q, toWord e, toWord (inverse e (totient p q)), toWord (p * q)⟩

section
variable {p q e : Nat} (h : KeyParts p q e)
include h

theorem KeyParts.two_le_totient : 2 ≤ totient p q :=
  Machine.two_le_totient h.two_le_p h.two_le_q h.distinct

/-- The exponent `d` is an inverse of `e` (R226). -/
theorem KeyParts.mul_inverse : e * inverse e (totient p q) % totient p q = 1 := by
  have htwo := h.two_le_totient
  rw [mul_inverse_mod _ _ (by omega) h.coprime, Nat.mod_eq_of_lt htwo]

theorem KeyParts.inverse_lt : inverse e (totient p q) < totient p q := by
  have htwo := h.two_le_totient
  exact Machine.inverse_lt _ _ (by omega)

/-- The check of R227 never fails. -/
theorem finishKey_eq (draws : List Word) : finishKey p q e draws = .done (keyFileOf p q e) draws :=
  if_neg (not_not.mpr h.mul_inverse)

/-- The five key registers hold the five numbers (R9): each is below the product of the primes, which is a Word. -/
theorem keyFileOf_toNat : (keyFileOf p q e).p.toNat = p ∧ (keyFileOf p q e).q.toNat = q ∧
    (keyFileOf p q e).e.toNat = e ∧ (keyFileOf p q e).d.toNat = inverse e (totient p q) ∧
    (keyFileOf p q e).n.toNat = p * q := by
  have hp : p ≤ p * q := Nat.le_mul_of_pos_right p (by have := h.two_le_q; omega)
  have hq : q ≤ p * q := Nat.le_mul_of_pos_left q (by have := h.two_le_p; omega)
  have hphi : totient p q ≤ p * q := totient_le_mul p q
  have toNat_of_le : ∀ v ≤ p * q, (toWord v).toNat = v := fun v hv => toNat_toWord v (hv.trans_lt h.product_lt)
  exact ⟨toNat_of_le p hp, toNat_of_le q hq, toNat_of_le e (h.e_lt.le.trans hphi),
    toNat_of_le _ (h.inverse_lt.le.trans hphi), toNat_of_le _ le_rfl⟩

/-- The KeyPair is the only key file with these primes, this public exponent, their product and an inverse below `phi`
(R226: the inverse is unique). -/
theorem keyFileOf_eq_iff (k : KeyFile) : keyFileOf p q e = k ↔ k.p.toNat = p ∧ k.q.toNat = q ∧ k.e.toNat = e ∧
    k.n.toNat = p * q ∧ k.d.toNat < totient p q ∧ e * k.d.toNat % totient p q = 1 := by
  obtain ⟨hp, hq, he, hd, hn⟩ := keyFileOf_toNat h
  constructor
  · rintro rfl
    rw [hd]
    exact ⟨hp, hq, he, hn, h.inverse_lt, h.mul_inverse⟩
  · rintro ⟨hkp, hkq, hke, hkn, hlt, hinv⟩
    have hone : 1 % totient p q = 1 := Nat.mod_eq_of_lt h.two_le_totient
    have hkd : k.d.toNat = inverse e (totient p q) :=
      inverse_unique h.coprime h.inverse_lt hlt (h.mul_inverse.trans hone.symm) (hinv.trans hone.symm)
    cases k
    simp only [keyFileOf, KeyFile.mk.injEq]
    exact ⟨BitVec.eq_of_toNat_eq (hp.trans hkp.symm), BitVec.eq_of_toNat_eq (hq.trans hkq.symm),
      BitVec.eq_of_toNat_eq (he.trans hke.symm), BitVec.eq_of_toNat_eq (hd.trans hkd.symm),
      BitVec.eq_of_toNat_eq (hn.trans hkn.symm)⟩

end

/-- A sequence of two pieces of pseudocode raises an error exactly when the first does, or the second after it. -/
theorem Run.bind_eq_raise {α β : Type} {x : Run α} {f : α → List Word → Run β} {e : CmdError} :
    x.bind f = .raise e ↔ x = .raise e ∨ ∃ a mid, x = .done a mid ∧ f a mid = .raise e := by
  cases x <;> simp [Run.bind]

/-- `keygen()` ends with a key exactly when its loops take `p`, `q` and `e` (R220, R229). -/
theorem keygen_eq_done_iff (kg : KgConfig) (draws : List Word) (k : KeyFile) (rest : List Word) :
    keygen kg draws = .done k rest ↔ KeygenSucceeds kg draws k rest := by
  simp only [keygen, Run.bind_eq_done]
  constructor
  · rintro ⟨p, afterP, hP, q, afterQ, hQ, e, afterE, hE, hfinish⟩
    have hparts := keyParts_of_loops hP hQ hE
    rw [finishKey_eq hparts] at hfinish
    injection hfinish with hk hrest
    obtain ⟨rfl, rfl, rfl, hn, hd, hinv⟩ := (keyFileOf_eq_iff hparts k).mp hk
    subst hrest
    exact ⟨afterP, afterQ, (drawP_follows _ _).done_iff.mp hP, (drawQ_follows _ _ _).done_iff.mp hQ,
      (drawExponent_follows _ _ _).done_iff.mp hE, hn, hd, hinv⟩
  · rintro ⟨afterP, afterQ, hP, hQ, hE, hn, hd, hinv⟩
    replace hP := (drawP_follows _ _).done_iff.mpr hP
    replace hQ := (drawQ_follows _ _ _).done_iff.mpr hQ
    replace hE := (drawExponent_follows _ _ _).done_iff.mpr hE
    have hparts := keyParts_of_loops hP hQ hE
    refine ⟨_, _, hP, _, _, hQ, _, _, hE, ?_⟩
    rw [finishKey_eq hparts, (keyFileOf_eq_iff hparts k).mpr ⟨rfl, rfl, rfl, hn, hd, hinv⟩]

/-- `keygen()` raises an error exactly when one of its loops does (R227, R228). -/
theorem keygen_eq_raise_iff_loops (kg : KgConfig) (draws : List Word) (err : CmdError) :
    keygen kg draws = .raise err ↔ drawP kg draws = .raise err ∨
      ∃ p afterP, drawP kg draws = .done p afterP ∧ (drawQ kg p afterP = .raise err ∨
        ∃ q afterQ, drawQ kg p afterP = .done q afterQ ∧
          drawExponent (totient p q) kg.attempts.toNat afterQ = .raise err) := by
  simp only [keygen, Run.bind_eq_raise]
  refine or_congr_right (exists₂_congr fun p afterP => and_congr_right fun hP => or_congr_right
    (exists₂_congr fun q afterQ => and_congr_right fun hQ => or_iff_left ?_))
  rintro ⟨e, afterE, hE, hfinish⟩
  rw [finishKey_eq (keyParts_of_loops hP hQ hE)] at hfinish
  cases hfinish

/-- The error is that of exceeded attempts (R228). -/
theorem keygen_eq_raise_iff (kg : KgConfig) (draws : List Word) (err : CmdError) :
    keygen kg draws = .raise err ↔ err = .attemptsExceeded ∧ KeygenExhausts kg draws := by
  simp only [keygen_eq_raise_iff_loops, (drawP_follows _ _).done_iff, (drawP_follows _ _).raise_iff,
    (drawQ_follows _ _ _).done_iff, (drawQ_follows _ _ _).raise_iff, (drawExponent_follows _ _ _).raise_iff]
  constructor
  · rintro (⟨he, hP⟩ | ⟨p, afterP, hP, ⟨he, rest, hQ⟩ | ⟨q, afterQ, hQ, he, rest, hE⟩⟩)
    · exact ⟨he, .inl hP⟩
    · exact ⟨he, .inr (.inl ⟨p, afterP, rest, hP, hQ⟩)⟩
    · exact ⟨he, .inr (.inr ⟨p, q, afterP, afterQ, rest, hP, hQ, hE⟩)⟩
  · rintro ⟨he, hP | ⟨p, afterP, rest, hP, hQ⟩ | ⟨p, q, afterP, afterQ, rest, hP, hQ, hE⟩⟩
    · exact .inl ⟨he, hP⟩
    · exact .inr ⟨p, afterP, hP, .inl ⟨he, rest, hQ⟩⟩
    · exact .inr ⟨p, afterP, hP, .inr ⟨q, afterQ, hQ, he, rest, hE⟩⟩

end Sys2Proof.Machine
end

section
/-! KEYGEN (46_keygen.md R221, R229 to R233): what it writes, what its key guarantees, and its bounds. -/

namespace Sys2Proof.Machine

/-- The engine's turn on a KEYGEN that ends with a key (R229). -/
theorem exec_keygen_of_done {s : State} {ctx : InFlight} {k : KeyFile} {rest : List Word} (hs : s.inFlight = some ctx)
    (h : keygen ctx.regs.kg ctx.draws = .done k rest) : exec .keygen s = .next (s.complete (keygenSuccess k)) :=
  exec_of_fin hs (by simp only [instrResult, keygenResult, h])

/-- The engine's turn on a KEYGEN that fails (R230). -/
theorem exec_keygen_of_raise {s : State} {ctx : InFlight} {e : CmdError} (hs : s.inFlight = some ctx)
    (h : keygen ctx.regs.kg ctx.draws = .raise e) : exec .keygen s = .next (s.complete (keygenFailure e)) :=
  exec_of_fin hs (by simp only [instrResult, keygenResult, h])

/-- The engine's turn on a KEYGEN that asks for one more draw (20_memory.md R93). -/
theorem exec_keygen_of_more {s : State} {ctx : InFlight} (hs : s.inFlight = some ctx)
    (h : keygen ctx.regs.kg ctx.draws = .more) : exec .keygen s = .next (s.takeDraw ctx) :=
  exec_of_more hs (keygenResult_eq_more.mpr h)

/-- Settles O42: `keygen()` is its loops (`keygen_eq_done_iff`, `keygen_eq_raise_iff`), and the engine's turn writes what
it ends with or takes the draw that is offered. -/
theorem keygenWritesOrDestroysTheKey : Obligations.KeygenWritesOrDestroysTheKey := by
  refine ⟨decode_encode (i := .keygen) rfl, fun kg draws => ⟨keygen_eq_done_iff kg draws, keygen_eq_raise_iff kg draws⟩,
    fun s ctx hs => ⟨fun k rest hdone => exec_keygen_of_done hs hdone, fun e hraise => ?_, fun hmore => ?_⟩⟩
  · obtain ⟨rfl, -⟩ := (keygen_eq_raise_iff _ _ _).mp hraise
    exact ⟨.inl rfl, exec_keygen_of_raise hs hraise⟩
  · have hexec := exec_keygen_of_more hs hmore
    refine ⟨fun hnone => ?_, fun u hu => ⟨_, hexec, ?_⟩⟩
    · simpa [State.takeDraw, hnone] using hexec
    · rw [takeDraw_of_reply hu]
      rfl

/-- A KEYGEN that completes with KEYVALID set ended with the key it writes (R229, R230). -/
theorem exec_keygen_valid {s t : State} {ctx : InFlight} (hs : s.inFlight = some ctx) (ht : exec .keygen s = .next t)
    (hidle : t.inFlight = none) (hvalid : t.keyValid = true) :
    ∃ rest, keygen ctx.regs.kg ctx.draws = .done t.keys rest := by
  cases hk : keygen ctx.regs.kg ctx.draws with
  | done k rest =>
    cases (exec_keygen_of_done hs hk).symm.trans ht
    exact ⟨rest, rfl⟩
  | raise e =>
    cases (exec_keygen_of_raise hs hk).symm.trans ht
    cases hvalid
  | more =>
    cases (exec_keygen_of_more hs hk).symm.trans ht
    rcases takeDraw_cases s ctx with ⟨-, h⟩ | ⟨u, -, h⟩ <;> rw [h] at hidle
    · rw [hs] at hidle; cases hidle
    · cases hidle

/-- A scaled draw lies in a range of Words that is not empty (00_scope.md R13). -/
theorem mem_range_of_scaled {c lo hi : Word} (hc : ∃ u : Word, c.toNat = scale u.toNat lo.toNat hi.toNat)
    (h : lo < hi) : lo ≤ c ∧ c < hi := by
  obtain ⟨u, hu⟩ := hc
  rw [BitVec.le_def, BitVec.lt_def, hu]
  exact ⟨le_scale _ _ _, scale_lt _ _ _ u.isLt h⟩

/-- Settles O43: (a) and (c) are what the prime loops ask of the candidate they take, the others the KeyPair's
(`keygen_done_valid`). -/
theorem keygenKeyPairInvariants : Obligations.KeygenKeyPairInvariants := by
  intro s t ctx hs ht hidle hvalid
  obtain ⟨rest, hdone⟩ := exec_keygen_valid hs ht hidle hvalid
  have hkey := keygen_done_valid hdone
  obtain ⟨afterP, afterQ, hP, hQ, -⟩ := (keygen_eq_done_iff _ _ _ _).mp hdone
  obtain ⟨hpScaled, hpCheap, testedP, hpTest, hpSuffix⟩ := drawPrime_taken ((drawP_follows _ _).done_iff.mpr hP)
  obtain ⟨hqScaled, hqCheap, testedQ, hqTest, hqSuffix⟩ := drawPrime_taken ((drawQ_follows _ _ _).done_iff.mpr hQ)
  have hafterP : afterP <:+ ctx.draws := (isprime_rest_suffix _ _ _ _ _ hpTest).trans hpSuffix
  refine ⟨⟨testedP, _, hpTest, hpSuffix⟩, ⟨testedQ, _, hqTest, hqSuffix.trans hafterP⟩, hkey.distinct,
    ⟨of_decide_eq_true hpCheap, (of_decide_eq_true hqCheap).1, fun hlt => ?_⟩, hkey.n_eq,
    ⟨hkey.e_ge, hkey.e_lt, hkey.e_coprime⟩, ⟨hkey.d_ge, hkey.d_lt, hkey.inverse⟩⟩
  obtain ⟨hloP, hPhi⟩ := mem_range_of_scaled hpScaled hlt
  obtain ⟨hloQ, hQhi⟩ := mem_range_of_scaled hqScaled hlt
  exact ⟨hloP, hPhi, hloQ, hQhi⟩

/-- Settles O44: it asks for more only below the bound. -/
theorem keygenDrawsAreBounded : Obligations.KeygenDrawsAreBounded :=
  fun _ _ hbound hmore => absurd (keygen_more_length hmore) (Nat.not_lt.mpr hbound)

/-! ### Configurations without a key (R233) -/

/-- A prime loop whose candidates all fail the cheap test consumes one draw an attempt and exceeds its attempts. -/
theorem drawPrime_of_never_cheap {cheap : Nat → Bool} {lo hi : Nat}
    (hc : ∀ u : Word, cheap (scale u.toNat lo hi) = false) (k : Nat) (draws : List Word) :
    drawPrime cheap lo hi k draws = if draws.length < k then .more else .raise .attemptsExceeded := by
  induction k generalizing draws with
  | zero => rfl
  | succ k ih =>
    cases draws with
    | nil => rfl
    | cons u rest => simp [drawPrime_of_not_cheap k (hc u), ih]

/-- With a lower bound at the top of the range or above it no candidate for `p` passes the cheap test. -/
theorem drawP_of_min_ge {kg : KgConfig} (hlt : kg.lo < kg.hi) (hmin : kg.hi.toNat - 1 ≤ kg.min.toNat)
    (draws : List Word) :
    drawP kg draws = if draws.length < kg.attempts.toNat then .more else .raise .attemptsExceeded := by
  refine drawPrime_of_never_cheap (fun u => ?_) _ draws
  have hc : scale u.toNat kg.lo.toNat kg.hi.toNat < kg.hi.toNat := scale_lt _ _ _ u.isLt hlt
  exact decide_eq_false (by omega)

/-- With an empty range both primes would be its only candidate, which `q` may not be. -/
theorem keygen_ne_done_of_hi_le {kg : KgConfig} (h : kg.hi ≤ kg.lo) (draws : List Word) (k : KeyFile)
    (rest : List Word) : keygen kg draws ≠ .done k rest := by
  intro hdone
  obtain ⟨afterP, afterQ, hP, hQ, -⟩ := (keygen_eq_done_iff _ _ _ _).mp hdone
  obtain ⟨⟨u, hp⟩, -⟩ := drawPrime_taken ((drawP_follows _ _).done_iff.mpr hP)
  obtain ⟨⟨v, hq⟩, -⟩ := drawPrime_taken ((drawQ_follows _ _ _).done_iff.mpr hQ)
  rw [scale_of_le _ _ _ h] at hp hq
  exact (keygen_done_valid hdone).distinct (BitVec.eq_of_toNat_eq (hp.trans hq.symm))

/-- Settles O45: the first loop ends at once without attempts; an empty range has one candidate; a bound at the top of
the range leaves none. -/
theorem keygenCornerConfigurationsFail : Obligations.KeygenCornerConfigurationsFail := by
  refine fun kg draws => ⟨fun hzero => ?_, fun hempty => ?_, fun hlt hmin => ⟨fun hlen => ?_, fun hlen => ?_⟩⟩
  · have hP : drawP kg draws = .raise .attemptsExceeded := by simp [drawP, hzero, drawPrime]
    simp [keygen, hP, Run.bind]
  · cases hk : keygen kg draws with
    | more => exact .inl rfl
    | raise e => exact .inr (congrArg Run.raise ((keygen_eq_raise_iff _ _ _).mp hk).1)
    | done k rest => exact absurd hk (keygen_ne_done_of_hi_le hempty draws k rest)
  · simp [keygen, drawP_of_min_ge hlt hmin, hlen, Run.bind]
  · simp [keygen, drawP_of_min_ge hlt hmin, Nat.not_lt.mpr hlen, Run.bind]

end Sys2Proof.Machine
end

section
/-! The error codes (60_exceptions.md R250, R254, R260): which command can end with which code, and that none ends with
code 4. -/

namespace Sys2Proof.Machine

/-! ### The codes of an outcome -/

/-- A command with a modulus ends with code 0 or 2 (R252). -/
theorem modularResult_code {f : Word → Word → Word → Word} {r : Snapshot} {o : CmdOutcome}
    (h : modularResult f r = .fin o) : errorCode o.err ∈ ([0, 2] : List (BitVec 4)) := by
  unfold modularResult at h
  split at h <;> cases h
  · exact .tail _ (.head _)
  · exact .head _

/-- A transformation with the stored key ends with code 0 or 7 (47_cipher.md R241, R242). -/
theorem storedKeyResult_code {exponent : Word} {r : Snapshot} {o : CmdOutcome}
    (h : storedKeyResult exponent r = .fin o) : errorCode o.err ∈ ([0, 7] : List (BitVec 4)) := by
  unfold storedKeyResult at h
  split at h <;> cases h
  · exact .head _
  · exact .tail _ (.head _)

/-- DIV ends with code 0 or 2 (40_divide.md R141). -/
theorem divResult_code {r : Snapshot} {draws : List Word} {o : CmdOutcome} (h : divResult r draws = .fin o) :
    errorCode o.err ∈ ([0, 2] : List (BitVec 4)) := by
  unfold divResult at h
  split at h <;> cases h
  · exact .tail _ (.head _)
  · exact .head _

/-- MODINV ends with code 0, 2 or 3 (45_modinv.md R211). -/
theorem modinvResult_code {r : Snapshot} {draws : List Word} {o : CmdOutcome} (h : modinvResult r draws = .fin o) :
    errorCode o.err ∈ ([0, 2, 3] : List (BitVec 4)) := by
  by_cases hzero : r.opn = 0
  · cases (modinvResult_of_eq_zero hzero draws).symm.trans h
    exact .tail _ (.head _)
  · by_cases hg : Nat.gcd r.opa.toNat r.opn.toNat = 1
    · cases (modinvResult_of_coprime hzero hg draws).symm.trans h
      exact .head _
    · cases (modinvResult_of_not_coprime hzero hg draws).symm.trans h
      exact .tail _ (.tail _ (.head _))

/-- ISPRIME raises no error (44_primality.md R191). -/
theorem isprimeResult_code {r : Snapshot} {draws : List Word} {o : CmdOutcome} (h : isprimeResult r draws = .fin o) :
    errorCode o.err = 0 := by
  unfold isprimeResult at h
  split at h
  · cases h
  · next e hraise => exact absurd hraise (isprime_ne_raise _ _ _ e)
  · cases h
    rfl

/-- KEYGEN ends with code 0 or 5: the check of 46_keygen.md R227 passes, so its one error is that of exceeded attempts
(`keygen_eq_raise_iff`). -/
theorem keygenResult_code {r : Snapshot} {draws : List Word} {o : CmdOutcome} (h : keygenResult r draws = .fin o) :
    errorCode o.err ∈ ([0, 5] : List (BitVec 4)) := by
  unfold keygenResult at h
  split at h
  · cases h
  · next e hraise =>
    obtain ⟨rfl, -⟩ := (keygen_eq_raise_iff _ _ _).mp hraise
    cases h
    exact .tail _ (.head _)
  · cases h
    exact .head _

/-- Each command ends with one of its codes (R260). -/
theorem instrResult_code {i : Instr} {r : Snapshot} {draws : List Word} {o : CmdOutcome}
    (h : instrResult i r draws = .fin o) : errorCode o.err ∈ allowedCodes (.ok i) := by
  cases i with
  | div => exact divResult_code (draws := draws) h
  | modadd | modsub | modmul | modpow | xform =>
    simp only [instrResult, modaddResult, modsubResult, modmulResult, modpowResult, xformResult] at h
    exact modularResult_code h
  | modopInvalid fn => cases h; exact .head _
  | gcd => cases h; exact .head _
  | isprime => exact List.mem_singleton.mpr (isprimeResult_code h)
  | modinv => exact modinvResult_code (draws := draws) h
  | keygen => exact keygenResult_code h
  | enc | dec => exact storedKeyResult_code h

/-- Settles O47: command by command, and code 6 for a word that encodes none. -/
theorem commandsEndWithTheirOwnCodes : Obligations.CommandsEndWithTheirOwnCodes := by
  intro c r draws o h
  cases hd : decode c with
  | ok i =>
    simp only [commandResult, hd] at h
    exact instrResult_code h
  | error e =>
    cases (commandResult_illegal hd r draws).symm.trans h
    exact .head _

/-! ### Code 4 -/

/-- The table of R260 without KEYGEN's row of R254 lists code 4 nowhere. -/
theorem ne_four_of_mem_allowedCodes {d : Except DecodeReject Instr} {code : BitVec 4} (h : code ∈ allowedCodes d) :
    code ≠ 4 := by
  rintro rfl
  revert h
  rcases d with e | i
  · simp [allowedCodes]
  · cases i <;> simp [allowedCodes]

/-- A host transaction leaves ERRCODE, or is an acceptance and clears it (20_memory.md R87, R90). -/
theorem hostTxn_errCode (s : State) (txn : HostTxn) :
    (s.hostTxn txn).errCode = s.errCode ∨ (s.hostTxn txn).errCode = 0 := by
  rcases hostTxn_cases txn s with ⟨i, -, h⟩ | ⟨i, v, -, h | h | h | ⟨-, h⟩ | ⟨-, -, h⟩ | ⟨-, r, h⟩⟩ <;> rw [h] <;> simp

/-- The engine's step leaves ERRCODE, or writes one of the codes of the command in flight (R94, R260). -/
theorem engineStep_errCode {s t : State} (h : engineStep s = .next t) :
    t.errCode = s.errCode ∨ ∃ ctx, s.inFlight = some ctx ∧ t.errCode ∈ allowedCodes (decode ctx.word) := by
  rcases engineStep_cases s with ⟨-, ht⟩ | ⟨ctx, -, -, ht⟩ | ⟨ctx, o, hs, hf, ht⟩ <;>
    obtain rfl := Host.Outcome.next.inj (ht.symm.trans h)
  · exact .inl rfl
  · exact .inl (by simp)
  · exact .inr ⟨ctx, hs, commandsEndWithTheirOwnCodes _ _ _ _ hf⟩

/-- No input's step writes code 4 (R254). -/
theorem inputStep_errCode_ne_four {x : Input} {rest : List Input} {s t : State} (hs : s.errCode ≠ 4)
    (h : inputStep x rest s = .next t) : t.errCode ≠ 4 := by
  refine inputStep_keeps (P := fun u => u.errCode ≠ 4) (fun _ _ _ hu => hu) (fun u txn hu => ?_)
    (fun u v hu he => ?_) (fun _ => (by decide : (0 : BitVec 4) ≠ 4)) hs h
  · rcases hostTxn_errCode u txn with hcode | hcode <;> rw [hcode]
    · exact hu
    · decide
  · rcases engineStep_errCode he with hcode | ⟨ctx, -, hcode⟩
    · exact hcode ▸ hu
    · exact ne_four_of_mem_allowedCodes hcode

/-- Settles O46: a step runs one input, and no input's step writes code 4; reset has code 0. -/
theorem codeFourIsNeverReported : Obligations.CodeFourIsNeverReported := by
  refine ⟨fun s t hs hst => ?_, fun s hs => ?_⟩
  · obtain ⟨x, rest, hx, -⟩ := step_eq_inputStep s
    exact inputStep_errCode_ne_four hs (hx ▸ hst)
  · induction hs with
    | reset => decide
    | step s t x _ hx ih => exact inputStep_errCode_ne_four ih hx

end Sys2Proof.Machine
end

section
/-! Taking an error and the return from it (60_exceptions.md R262, R264). -/

namespace Sys2Proof.Machine

/-- Settles O48: the completion step writes the error's outcome, which for KEYGEN destroys the key and for any other
command carries none. -/
theorem errorCompletionHasNoPartialEffect : Obligations.ErrorCompletionHasNoPartialEffect := by
  intro s ctx o e reply rest hs hf herr hi
  have hst := step_engine_of_fin hs hf hi
  refine ⟨fun hd => ?_, fun hd => ?_⟩
  · rcases commandResult_fin_keygen hd hf with ⟨k, rfl⟩ | ⟨e', rfl⟩
    · cases herr
    · cases herr
      exact ⟨_, hst, rfl⟩
  · rcases commandResult_success_or_error hd hf with ⟨a, b, rfl⟩ | ⟨e', rfl⟩
    · cases herr
    · cases herr
      exact ⟨_, hst, rfl⟩

/-- The acknowledgement clears DONE and ERR (R264). -/
theorem State.acknowledge_clears (s : State) : s.acknowledge.done = false ∧ s.acknowledge.err = false :=
  ⟨Bool.and_false _, Bool.and_false _⟩

/-- The acknowledgement leaves OVR (R264). -/
theorem State.acknowledge_ovr (s : State) : s.acknowledge.ovr = s.ovr := Bool.and_true _

/-- Settles O49: the write is the acknowledgement; while idle a write to CMD is an acceptance, whatever the flags. -/
theorem acknowledgementClearsTheFlags : Obligations.AcknowledgementClearsTheFlags := by
  intro s c rest
  refine ⟨fun hi => ?_, fun hidle hi => ?_⟩
  · obtain ⟨hdone, herr⟩ := (s.startStep rest none).acknowledge_clears
    exact ⟨(s.startStep rest none).acknowledge, step_host hi, hdone, herr, State.clearStatus_irq rfl _, rfl, rfl,
      State.acknowledge_ovr _, rfl⟩
  · have hidle' : (s.startStep rest none).inFlight = none := hidle
    refine ⟨(s.startStep rest none).accept c, ?_, rfl, rfl, rfl, rfl, rfl⟩
    rw [step_host hi, hostTxn_write_cmd_of_idle hidle']

end Sys2Proof.Machine
end

section
/-! Reset and hazards (70_reset_and_hazards.md R283, R286, R288). -/

namespace Sys2Proof.Machine

/-- Settles O9: the reset input's step looks at nothing but what the environment does later. -/
theorem resetStepWinsFromAnyState : Obligations.ResetStepWinsFromAnyState :=
  fun _ _ _ rest hi => ⟨State.resetStep rest, step_of_inputs hi, rfl⟩

/-- The engine's step goes on from every state, idle, with a draw or with the completion. -/
theorem exists_engineStep (s : State) : ∃ t, engineStep s = .next t := by
  rcases engineStep_cases s with ⟨-, h⟩ | ⟨ctx, -, -, h⟩ | ⟨ctx, o, -, -, h⟩ <;> exact ⟨_, h⟩

/-- Every input's step goes on from every state (R286). -/
theorem exists_inputStep (x : Input) (rest : List Input) (s : State) : ∃ t, inputStep x rest s = .next t := by
  cases x with
  | host txn => exact ⟨_, rfl⟩
  | engine reply => exact exists_engineStep _
  | coincide txn reply b =>
    by_cases hb : hostGoesFirst txn b = true
    · obtain ⟨t, ht⟩ := exists_engineStep ((s.startStep rest reply).hostTxn txn)
      exact ⟨t, (if_pos hb).trans ht⟩
    · obtain ⟨u, hu⟩ := exists_engineStep (s.startStep rest reply)
      exact ⟨u.hostTxn txn, (if_neg hb).trans (by rw [hu, thenHost])⟩
  | reset txn reply => exact ⟨_, rfl⟩

/-- Settles O7: a step runs one input. -/
theorem everyStepGoesOn : Obligations.EveryStepGoesOn := by
  intro s
  obtain ⟨x, rest, hx, -⟩ := step_eq_inputStep s
  rw [hx]
  exact exists_inputStep x rest s

/-- A command that asks for a draw is moved on by a reply alone (20_memory.md R93). -/
theorem InFlight.movedBy_iff_of_more {ctx : InFlight} (hm : commandResult ctx.word ctx.regs ctx.draws = .more)
    (x : Input) : ctx.MovedBy x ↔ ∃ u, x.engineReply = some (some u) := by
  simp [InFlight.MovedBy, hm]

/-- While a command is in flight DONE is 0, and so is irq (10_state.md R53 (a)). -/
theorem State.Inv.done_irq_of_inFlight {s : State} {ctx : InFlight} (h : s.Inv) (hs : s.inFlight = some ctx) :
    s.done = false ∧ s.irq = false := by
  have hdone := (h.flight_ok ctx hs).done_clear
  exact ⟨hdone, by simp [State.irq, hdone]⟩

/-- Settles O24: the inputs listed neither reset the block nor bring a reply, so the command stays in flight as it is,
and the invariant says the rest. -/
theorem hangsUntilReplyOrReset : Obligations.HangsUntilReplyOrReset := by
  intro s x rest hinv hreq hi hx
  obtain ⟨ctx, hs, hm⟩ := (rngReq_iff s).mp hreq
  obtain ⟨t, ht⟩ := exists_inputStep x rest s
  have hreset : ∀ txn reply, x ≠ .reset txn reply := by
    rintro txn reply rfl
    simp at hx
  have hreply : ¬ ctx.MovedBy x := by
    rw [InFlight.movedBy_iff_of_more hm]
    rcases hx with ⟨txn, rfl⟩ | rfl | ⟨txn, b, rfl⟩ <;> simp [Input.engineReply]
  have hflight := inputStep_inFlight_of_not_moved hs hreset hreply ht
  obtain ⟨hdone, hirq⟩ := (inputStep_inv hinv ht).done_irq_of_inFlight hflight
  exact ⟨t, (step_of_inputs hi).trans ht, hflight.trans hs.symm, (rngReq_iff t).mpr ⟨ctx, hflight, hm⟩, hdone, hirq⟩

end Sys2Proof.Machine
end

section
/-! XFORM, ENC and DEC (47_cipher.md R240 to R242). -/

namespace Sys2Proof.Machine

/-- Settles O34: XFORM's execution function is MODPOW's, so its cases are too (`modpowAnswersThePowerModuloN`). -/
theorem xformAnswersAsModpow : Obligations.XformAnswersAsModpow := by
  refine ⟨decode_encode (i := .xform) rfl, fun s ctx hs => ?_⟩
  have hexec : exec .xform s = exec .modpow s := rfl
  obtain ⟨-, hmodpow⟩ := modpowAnswersThePowerModuloN
  rw [hexec]
  exact ⟨rfl, hmodpow s ctx hs⟩

section
variable {i : Instr} {exponent : Word} {s : State} {ctx : InFlight} (hs : s.inFlight = some ctx)
  (hf : instrResult i ctx.regs ctx.draws = storedKeyResult exponent ctx.regs)
include hs hf

/-- The engine's turn on ENC or DEC without a valid key: code 7 (R241, R242). -/
theorem exec_storedKey_of_invalid (hv : ctx.regs.keyValid = false) :
    exec i s = .next (s.complete (errorOutcome .keyNotValid)) :=
  exec_of_fin hs (hf.trans (if_neg (by simp [hv])))

/-- The engine's turn on ENC or DEC with a valid key: the power by the stored exponent (R241, R242). -/
theorem exec_storedKey_of_valid (hv : ctx.regs.keyValid = true) :
    exec i s = .next (s.complete (success (powmodWord ctx.regs.opa exponent ctx.regs.keyN) 0)) :=
  exec_of_fin hs (hf.trans (if_pos hv))

end

/-- Settles O35: the two commands differ in their exponent. -/
theorem encAndDecUseTheStoredKey : Obligations.EncAndDecUseTheStoredKey := by
  refine ⟨decode_encode (i := .enc) rfl, decode_encode (i := .dec) rfl, fun s ctx hs => ⟨fun hv => ?_, fun hv => ?_⟩⟩
  · exact ⟨exec_storedKey_of_invalid (i := .enc) hs rfl hv, exec_storedKey_of_invalid (i := .dec) hs rfl hv⟩
  · exact ⟨_, _, exec_storedKey_of_valid (i := .enc) hs rfl hv, exec_storedKey_of_valid (i := .dec) hs rfl hv,
      fun hn => ⟨toNat_powmodWord _ _ hn, toNat_powmodWord _ _ hn⟩⟩

end Sys2Proof.Machine
end

section
/-! The RSA round trip (47_cipher.md R244). -/

namespace Sys2Proof.Machine

/-- Fermat's little theorem for every base, a multiple of the prime included. -/
theorem pow_succ_modEq_self_of_prime {p : Nat} (hp : p.Prime) (x k : Nat) : x ^ ((p - 1) * k + 1) ≡ x [MOD p] := by
  have := Fact.mk hp
  rw [← ZMod.natCast_eq_natCast_iff, Nat.cast_pow]
  by_cases hx : (x : ZMod p) = 0
  · rw [hx, zero_pow (Nat.succ_ne_zero _)]
  · rw [pow_succ, pow_mul, ZMod.pow_card_sub_one_eq_one hx, one_pow, one_mul]

/-- The power by both exponents of a KeyPair of primes is the identity modulo `n`: the product of the exponents is 1
modulo `phi`, hence modulo `p - 1` and modulo `q - 1`. -/
theorem KeyFile.Valid.pow_exponents_modEq {k : KeyFile} (h : k.Valid) (hp : k.p.toNat.Prime) (hq : k.q.toNat.Prime)
    (x : Nat) : x ^ (k.e.toNat * k.d.toNat) ≡ x [MOD k.n.toNat] := by
  have hprod : k.e.toNat * k.d.toNat =
      totient k.p.toNat k.q.toNat * (k.e.toNat * k.d.toNat / totient k.p.toNat k.q.toNat) + 1 := by
    conv_lhs => rw [← Nat.div_add_mod (k.e.toNat * k.d.toNat) (totient k.p.toNat k.q.toNat), h.inverse]
  have hne : k.p.toNat ≠ k.q.toNat := fun heq => h.distinct (BitVec.eq_of_toNat_eq heq)
  rw [h.n_eq, ← Nat.modEq_and_modEq_iff_modEq_mul ((Nat.coprime_primes hp hq).mpr hne), hprod]
  constructor
  · rw [totient, Nat.mul_assoc]
    exact pow_succ_modEq_self_of_prime hp x _
  · rw [totient, Nat.mul_comm (k.p.toNat - 1), Nat.mul_assoc]
    exact pow_succ_modEq_self_of_prime hq x _

/-- Taking the power by `a` and then by `b` gives a residue back, where the power by `a * b` is the identity. -/
theorem powmodWord_powmodWord {x a b n : Word} (hx : x.toNat < n.toNat)
    (hab : x.toNat ^ (a.toNat * b.toNat) ≡ x.toNat [MOD n.toNat]) : powmodWord (powmodWord x a n) b n = x := by
  have hn : n ≠ 0 := by rintro rfl; exact Nat.not_lt_zero _ hx
  apply BitVec.eq_of_toNat_eq
  calc (powmodWord (powmodWord x a n) b n).toNat = (x.toNat ^ a.toNat % n.toNat) ^ b.toNat % n.toNat := by
        rw [toNat_powmodWord _ _ hn, toNat_powmodWord _ _ hn]
    _ = x.toNat ^ (a.toNat * b.toNat) % n.toNat := by rw [← Nat.pow_mod, ← pow_mul]
    _ = x.toNat := Nat.mod_eq_of_modEq hab hx

/-- A transformation by the stored exponent `a` and one by `b` of its result, each in a block of its own with modulus
`n`: both complete, and the second returns the data where the power by `a * b` is the identity. -/
theorem storedKey_roundTrip {i j : Instr} {a b n : Word} {s s' : State} {ctx ctx' : InFlight}
    (hs : s.inFlight = some ctx) (hs' : s'.inFlight = some ctx')
    (hi : instrResult i ctx.regs ctx.draws = storedKeyResult a ctx.regs)
    (hj : instrResult j ctx'.regs ctx'.draws = storedKeyResult b ctx'.regs)
    (hv : ctx.regs.keyValid = true) (hv' : ctx'.regs.keyValid = true) (hn : ctx.regs.keyN = n)
    (hn' : ctx'.regs.keyN = n) (hlt : ctx.regs.opa.toNat < n.toNat)
    (hab : ctx.regs.opa.toNat ^ (a.toNat * b.toNat) ≡ ctx.regs.opa.toNat [MOD n.toNat]) :
    ∃ t, exec i s = .next t ∧
      (ctx'.regs.opa = t.res0 → ∃ t', exec j s' = .next t' ∧ t'.err = false ∧ t'.res0 = ctx.regs.opa) := by
  subst hn
  refine ⟨_, exec_storedKey_of_valid hs hi hv, fun hdata => ⟨_, exec_storedKey_of_valid hs' hj hv', rfl, ?_⟩⟩
  rw [hn', hdata]
  exact powmodWord_powmodWord hlt hab

/-- Settles O36: the two exponents of a KeyPair undo each other, in either order. -/
theorem cipherRoundTripReturnsTheData : Obligations.CipherRoundTripReturnsTheData := by
  rintro k s s' ctx ctx' hk hp hq hs hs' hv he hd hn hv' he' hd' hn' hlt
  have hed := hk.pow_exponents_modEq hp hq ctx.regs.opa.toNat
  have hde : ctx.regs.opa.toNat ^ (k.d.toNat * k.e.toNat) ≡ ctx.regs.opa.toNat [MOD k.n.toNat] := by
    rwa [Nat.mul_comm]
  exact ⟨storedKey_roundTrip (i := .enc) (j := .dec) hs hs' (he ▸ rfl) (hd' ▸ rfl) hv hv' hn hn' hlt hed,
    storedKey_roundTrip (i := .dec) (j := .enc) hs hs' (hd ▸ rfl) (he' ▸ rfl) hv hv' hn hn' hlt hde⟩

end Sys2Proof.Machine
end
